-- ==== Sys2Proof/Word.lean ====
section
/-! DEFINITION. The widths the block works in (00_scope.md R7, R9) and their plainest arithmetic. -/

namespace Sys2Proof

/-- A byte of a frame (00_scope.md R9). -/
abbrev Byte := BitVec 8

/-- A command word or a result word, 32 bits (30_encoding.md R61, 10_state.md R21). -/
abbrev Word := BitVec 32

/-- A device register address, ADDR_W = 7 bits (00_scope.md R7, 20_memory.md R32). -/
abbrev Addr := BitVec 7

/-- `zext_32` of a byte (00_scope.md R9). -/
abbrev zext32 (b : Byte) : Word := b.setWidth 32

end Sys2Proof
end

