-- ==== Sys2Proof/Config.lean ====
section
/-! DEFINITION. What a build of the block fixes (00_scope.md R8, 10_state.md R28), and the free values the spec leaves open. -/

namespace Sys2Proof

/-- P_HPF_VARIANT (00_scope.md R4, R8; 92_eei_decisions.md D6). -/
inductive HpfVariant where
  | full      -- high-pass capable
  | minimal   -- HPF_SEL is hardwired to 0, HSET = 1 is illegal
  deriving DecidableEq, Repr

/-- P_ERR_POLICY (00_scope.md R4, R8; 92_eei_decisions.md D5). -/
inductive ErrPolicy where
  | baseline  -- START, GETID and the identity check swallow their errors
  | hardened  -- every error is surfaced
  deriving DecidableEq, Repr

/-- The parameters of a build. No command changes them (10_state.md R28); every value of each is modelled, because
`State.params` holds them (DESIGN CHOICE, entry 6). P_TERR is `Config.isTerr`. -/
structure Params where
  variant  : HpfVariant
  policy   : ErrPolicy
  /-- P_MAX_BURST, the largest N of a BRD command, as wide as its LEN field (92_eei_decisions.md D7; 30_encoding.md R62). -/
  maxBurst : BitVec 4
  deriving DecidableEq, Repr

/-- The values of 00_scope.md R8: FULL, HARDENED and 15. -/
def Params.reference : Params := { variant := .full, policy := .hardened, maxBurst := 15 }

/-- The longest frame, in bytes (40_framer.md R69; 10_state.md R21). -/
def maxFrame : Nat := 16

/-- FREE VALUE (entry 9). `draw()` of 00_scope.md R11: the value that the n-th draw of a run takes
(GETID under BASELINE after a transport error, 41_driver_ops.md R79, U2). -/
opaque Config.draw : Nat → Byte

/-- FREE VALUE (entry 10). The full-scale constant of the code 0b00, which the spec does not give
because the code never appears (10_state.md R18, 42_decode.md R86). -/
opaque Config.fullScaleNone : Word

/-- FREE VALUE (entry 11). The bit pattern of a NaN result of an operation on two patterns; no
result of the block is a NaN (42_decode.md R87). -/
opaque Config.nanBits : Word → Word → Word

/-- PARAMETER P_TERR (00_scope.md R8, U12; entry 7). Which labels, beside 0, name a value of the transport's error
type. The type is open, so nothing says which; that it has a value at all is all that is known of it. -/
opaque Config.isTerr : Nat → Bool

end Sys2Proof
end

