-- ==== Sys2Proof/Syntax.lean ====
section
/-! DEFINITION. The instructions: one constructor per row of spec/opcode_table.json, with the row's fields. -/

namespace Sys2Proof

/-- The nine host commands (30_encoding.md R65) and the three wire frames (30_encoding.md R48). -/
inductive Instr where
  /-- WR, format A (40_framer.md R70). -/
  | wr (addr : Addr) (data : Byte)
  /-- RD, format A (40_framer.md R71). -/
  | rd (addr : Addr)
  /-- BRD, format A, N = `len` (40_framer.md R72). -/
  | brd (addr : Addr) (len : BitVec 4)
  /-- INIT, format I (30_encoding.md R63, 41_driver_ops.md R75). -/
  | init (rset : Bool) (rcode : BitVec 2) (oset : Bool) (ocode : BitVec 4) (hset : Bool) (hcode : BitVec 3)
  /-- START, format Z (41_driver_ops.md R78). -/
  | start
  /-- GETID, format Z (41_driver_ops.md R79). -/
  | getid
  /-- TEMP, format Z (42_decode.md R88). -/
  | temp
  /-- ACCR, format Z (42_decode.md R89). -/
  | accr
  /-- ACCN, format Z (42_decode.md R90). -/
  | accn
  /-- WRFRAME, the write frame on the wire (30_encoding.md R50). -/
  | wrframe (addr : Addr) (data : Byte)
  /-- RDFRAME, the single-read frame on the wire (30_encoding.md R51). -/
  | rdframe (addr : Addr)
  /-- BRDFRAME, the burst-read frame of `n` placeholder bytes on the wire (30_encoding.md R52). -/
  | brdframe (addr : Addr) (n : BitVec 4)
  deriving DecidableEq, Repr

/-- Whether the instruction is a host command, delivered as a word on CMD (30_encoding.md R61), and not a
wire frame. -/
def Instr.isCommand : Instr → Bool
  | .wr _ _ => true
  | .rd _ => true
  | .brd _ _ => true
  | .init _ _ _ _ _ _ => true
  | .start => true
  | .getid => true
  | .temp => true
  | .accr => true
  | .accn => true
  | .wrframe _ _ => false
  | .rdframe _ => false
  | .brdframe _ _ => false

end Sys2Proof
end

