-- ==== Sys2Proof/WellFormed.lean ====
section
/-! DEFINITION. The field constraints an instruction meets (30_encoding.md R66 items 4 to 9; opcode_table.json "constraints"). -/

namespace Sys2Proof

/-- RSET = 1 needs a range code other than 0b00, RSET = 0 needs the code field 0 (R66 items 5, 8). -/
def rangeFieldOk (rset : Bool) (rcode : BitVec 2) : Bool :=
  if rset then rcode != 0 else rcode == 0

/-- OSET = 1 needs an ODR code of at most 10, OSET = 0 needs the code field 0 (R66 items 6, 8). -/
def odrFieldOk (oset : Bool) (ocode : BitVec 4) : Bool :=
  if oset then ocode.toNat ≤ 10 else ocode == 0

/-- HSET = 1 needs an HPF code other than 7 and the FULL variant, HSET = 0 needs the code field 0
(R66 items 7, 8, 9). -/
def hpfFieldOk (v : HpfVariant) (hset : Bool) (hcode : BitVec 3) : Bool :=
  if hset then hcode != 7 && v == .full else hcode == 0

/-- An instruction of a build with the parameters `p`.
BRDFRAME has N from 2: its one-byte frame is RDFRAME's, byte for byte (R52; DEDUCED, entry 14). -/
def Instr.wellFormed (p : Params) : Instr → Bool
  | .wr _ _ => true
  | .rd _ => true
  | .brd _ len => len != 0 && len.toNat ≤ p.maxBurst.toNat
  | .init rset rcode oset ocode hset hcode =>
      rangeFieldOk rset rcode && odrFieldOk oset ocode && hpfFieldOk p.variant hset hcode
  | .start => true
  | .getid => true
  | .temp => true
  | .accr => true
  | .accn => true
  | .wrframe _ _ => true
  | .rdframe _ => true
  | .brdframe _ n => n != 0 && n != 1 && 1 + n.toNat ≤ maxFrame

end Sys2Proof
end

