-- ==== Sys2Proof/Decode.lean ====
section
/-! DEFINITION. Decoding of command words (30_encoding.md R61 to R66) and of wire frames (R48 to R53), the encoder beside it, and the host's `decodeTableWord`. -/

namespace Sys2Proof

/-- Why a command word or a byte sequence is no instruction, one name per item of 30_encoding.md R66. -/
inductive Reject where
  /-- Item 1: OP = 0x0 or OP ≥ 0xA. -/
  | reservedOpcode
  /-- Item 2: a reserved bit of the word's format is 1. -/
  | reservedBit
  /-- Item 3: a field the command does not use is nonzero. -/
  | unusedField
  /-- Item 4: BRD with LEN = 0 or LEN > P_MAX_BURST. -/
  | badLength
  /-- Item 5: INIT with RSET = 1 and RCODE = 0b00. -/
  | rangeNone
  /-- Item 6: INIT with OSET = 1 and OCODE > 10. -/
  | odrOverTen
  /-- Item 7: INIT with HSET = 1 and HCODE = 7. -/
  | hpfSeven
  /-- Item 8: INIT with a set bit 0 and its code field nonzero. -/
  | codeWithoutSet
  /-- Item 9: INIT with HSET = 1 when P_HPF_VARIANT = MINIMAL. -/
  | hpfInMinimal
  /-- A byte sequence that is none of the three frame shapes of 30_encoding.md R48. -/
  | notAFrame
  deriving DecidableEq, Repr

/-- What the block decodes: a command word taken from CMD, or the bytes of a frame. -/
inductive Code where
  | word (w : Word)
  | frame (bytes : List Byte)
  deriving DecidableEq, Repr

/-! ### Command words -/

/-- Format A (R62): the reserved bits 27:23 and 7:4, then the command's unused fields and its length. -/
def decodeA (maxBurst : BitVec 4) (w : Word) (usesData usesLen : Bool) (build : Addr → Byte → BitVec 4 → Instr) : Except Reject Instr :=
  let addr := w.extractLsb' 16 7
  let data := w.extractLsb' 8 8
  let len := w.extractLsb' 0 4
  if w.extractLsb' 23 5 ≠ 0 ∨ w.extractLsb' 4 4 ≠ 0 then .error .reservedBit
  else if usesData = false ∧ data ≠ 0 then .error .unusedField
  else if usesLen = false ∧ len ≠ 0 then .error .unusedField
  else if usesLen = true ∧ (len = 0 ∨ maxBurst.toNat < len.toNat) then .error .badLength
  else .ok (build addr data len)

/-- Format I (R63): the reserved bits 27:24, 22:18, 14:12 and 6:3, then R66 items 5 to 9. -/
def decodeI (v : HpfVariant) (w : Word) : Except Reject Instr :=
  let rset := w.getLsbD 23
  let rcode := w.extractLsb' 16 2
  let oset := w.getLsbD 15
  let ocode := w.extractLsb' 8 4
  let hset := w.getLsbD 7
  let hcode := w.extractLsb' 0 3
  if w.extractLsb' 24 4 ≠ 0 ∨ w.extractLsb' 18 5 ≠ 0 ∨ w.extractLsb' 12 3 ≠ 0 ∨ w.extractLsb' 3 4 ≠ 0 then
    .error .reservedBit
  else if rset = true ∧ rcode = 0 then .error .rangeNone
  else if oset = true ∧ 10 < ocode.toNat then .error .odrOverTen
  else if hset = true ∧ hcode = 7 then .error .hpfSeven
  else if (rset = false ∧ rcode ≠ 0) ∨ (oset = false ∧ ocode ≠ 0) ∨ (hset = false ∧ hcode ≠ 0) then
    .error .codeWithoutSet
  else if hset = true ∧ v = .minimal then .error .hpfInMinimal
  else .ok (.init rset rcode oset ocode hset hcode)

/-- Format Z (R64): bits 27:0 are 0. -/
def decodeZ (w : Word) (i : Instr) : Except Reject Instr :=
  if w.extractLsb' 0 28 ≠ 0 then .error .reservedBit else .ok i

/-- The opcode map (R65) and the illegal words (R66), for a build with the parameters `p`. -/
def decodeWord (p : Params) (w : Word) : Except Reject Instr :=
  match (w.extractLsb' 28 4).toNat with
  | 1 => decodeA p.maxBurst w true false (fun addr data _ => .wr addr data)
  | 2 => decodeA p.maxBurst w false false (fun addr _ _ => .rd addr)
  | 3 => decodeA p.maxBurst w false true (fun addr _ len => .brd addr len)
  | 4 => decodeI p.variant w
  | 5 => decodeZ w .start
  | 6 => decodeZ w .getid
  | 7 => decodeZ w .temp
  | 8 => decodeZ w .accr
  | 9 => decodeZ w .accn
  | _ => .error .reservedOpcode

/-! ### Wire frames -/

/-- Whether every byte is a placeholder byte 0x00 (R48, R52). -/
def allPlaceholders : List Byte → Bool
  | [] => true
  | b :: bs => b == 0 && allPlaceholders bs

/-- A frame by its address byte and its length (R48, R49, R53): RW = 0 and two bytes, or RW = 1 and placeholder
bytes, at least one of them, up to the longest frame (40_framer.md R69). One placeholder byte is the single-read frame (R52). -/
def decodeFrame (bytes : List Byte) : Except Reject Instr :=
  match bytes with
  | [] => .error .notAFrame
  | a :: rest =>
      let addr := a.extractLsb' 1 7
      if a.getLsbD 0 then
        if allPlaceholders rest = false ∨ rest.length = 0 ∨ maxFrame < 1 + rest.length then .error .notAFrame
        else if rest.length = 1 then .ok (.rdframe addr)
        else .ok (.brdframe addr (BitVec.ofNat 4 rest.length))
      else
        match rest with
        | [d] => .ok (.wrframe addr d)
        | _ => .error .notAFrame

/-- The decoder: total, and an input that is no instruction is rejected by name. -/
def decode (p : Params) : Code → Except Reject Instr
  | .word w => decodeWord p w
  | .frame bytes => decodeFrame bytes

/-! ### The encoder -/

/-- Format A (R62): OP at bit 28, ADDR at bit 16, DATA at bit 8, LEN at bit 0, the reserved bits 0. -/
def encodeA (op : BitVec 4) (addr : Addr) (data : Byte) (len : BitVec 4) : Word :=
  BitVec.ofNat 32 (op.toNat * 2 ^ 28 + addr.toNat * 2 ^ 16 + data.toNat * 2 ^ 8 + len.toNat)

/-- Format I (R63): the set bits at 23, 15 and 7, RCODE at bit 16, OCODE at bit 8, HCODE at bit 0. -/
def encodeI (rset : Bool) (rcode : BitVec 2) (oset : Bool) (ocode : BitVec 4) (hset : Bool) (hcode : BitVec 3) : Word :=
  BitVec.ofNat 32
    (0x4 * 2 ^ 28 + rset.toNat * 2 ^ 23 + rcode.toNat * 2 ^ 16 + oset.toNat * 2 ^ 15 + ocode.toNat * 2 ^ 8 +
      hset.toNat * 2 ^ 7 + hcode.toNat)

/-- Format Z (R64): OP at bit 28, every other bit 0. -/
def encodeZ (op : BitVec 4) : Word := BitVec.ofNat 32 (op.toNat * 2 ^ 28)

/-- The address byte `(addr << 1) | rw`, as the encoding tables lay it out (R49). -/
def encodeAddressByte (addr : Addr) (read : Bool) : Byte := addr ++ BitVec.ofBool read

/-- The code of an instruction, from the encoding tables of 30_encoding.md (R48 to R52, R62 to R65). -/
def encode : Instr → Code
  | .wr addr data => .word (encodeA 0x1 addr data 0)
  | .rd addr => .word (encodeA 0x2 addr 0 0)
  | .brd addr len => .word (encodeA 0x3 addr 0 len)
  | .init rset rcode oset ocode hset hcode => .word (encodeI rset rcode oset ocode hset hcode)
  | .start => .word (encodeZ 0x5)
  | .getid => .word (encodeZ 0x6)
  | .temp => .word (encodeZ 0x7)
  | .accr => .word (encodeZ 0x8)
  | .accn => .word (encodeZ 0x9)
  | .wrframe addr data => .frame [encodeAddressByte addr false, data]
  | .rdframe addr => .frame [encodeAddressByte addr true, 0]
  | .brdframe addr n => .frame (encodeAddressByte addr true :: List.replicate n.toNat 0)

/-! ### Table words -/

/-- The `n` low bytes of `w`, the most significant one first: the order in which spec/opcode_table.json
numbers a wire row's bits (byte 0, the address byte, is its bits 15:8; entry 15). -/
def bytesOf : Nat → Nat → List Byte
  | 0, _ => []
  | n + 1, w => BitVec.ofNat 8 (w / 2 ^ (8 * n)) :: bytesOf n w

/-- The code an instruction word of the table stands for: 32 bits are a command word (R61), any other count
is a wire frame. A single byte is an address byte, whose frame goes on with placeholder bytes up to the
longest frame, 16 bytes (entry 15). -/
def tableCode (nbits w : Nat) : Code :=
  if nbits = 32 then .word (BitVec.ofNat 32 w)
  else if nbits = 8 then .frame (BitVec.ofNat 8 w :: List.replicate (maxFrame - 1) 0)
  else .frame (bytesOf (nbits / 8) w)

/-- The instruction the decoder of the reference build reads from a table word. -/
def decodeTableWord (nbits w : Nat) : Option Instr :=
  match decode Params.reference (tableCode nbits w) with
  | .ok i => some i
  | .error _ => none

end Sys2Proof
end

