-- ==== Sys2Proof/Machine/State.lean ====
section
/-! DEFINITION. Everything the spec gives the machine: registers (10_state.md R15), channels (R21), the event trace (20_memory.md R41), the inputs, the reset state (R30). -/

namespace Sys2Proof.Machine

/-- The two transfer kinds (10_state.md R21: 0 = DUPLEX, 1 = WRITE_ONLY). -/
inductive Kind where
  | duplex
  | writeOnly
  deriving DecidableEq, Repr

/-- A level of the chip-select line (10_state.md R22): low = 0 = asserted, high = 1 = deasserted. -/
inductive Level where
  | low
  | high
  deriving DecidableEq, Repr

/-- P_TERR, the type of the transport's error value (00_scope.md R8, U12): a parameter of the model, as the build's
`Config.isTerr` fixes it. The block only carries a value of it; labels as the names of its values are the model's
own (DESIGN CHOICE, entry 7). -/
structure Terr where
  label : Nat
  legal : label = 0 ∨ Config.isTerr label = true
  deriving DecidableEq, Repr

/-- A transfer request on XREQ (10_state.md R21). Its `len` field is the length of `tx`. -/
structure Request where
  kind : Kind
  tx   : List Byte
  deriving DecidableEq, Repr

/-- The `len` field of XREQ, 5 bits (10_state.md R21). -/
def Request.len (q : Request) : BitVec 5 := BitVec.ofNat 5 q.tx.length

/-- What the transport puts on XRSP (10_state.md R21): `rx` is meaningful in its first `len` bytes when the
request was DUPLEX and `ok` holds, `err` when `ok` does not hold. -/
structure Xrsp where
  ok  : Bool
  rx  : Vector Byte 16
  err : Terr
  deriving DecidableEq, Repr

/-- The answer of a transfer, `ok(rx)`, `ok()` or `err(e)` (00_scope.md R11, 40_framer.md R69, R73). -/
inductive Answer where
  | okRx (rx : List Byte)
  | okDone
  | err (e : Terr)
  deriving DecidableEq, Repr

/-- The status codes the block produces (60_exceptions.md R93); 6 and 7 are never produced (U5). -/
inductive Status where
  | ok
  | transportError
  | unexpectedDeviceId
  | notBound
  | alreadyBound
  | illegalCommand
  deriving DecidableEq, Repr

/-- The response record (10_state.md R23). A field that the command's rule does not drive has no value: `none`
for terr, d0, d1, d2 and len; no byte at the index for `bytes`, whose driven bytes are the list. -/
structure Response where
  status : Status
  terr   : Option Terr := none
  d0     : Option Word := none
  d1     : Option Word := none
  d2     : Option Word := none
  bytes  : List Byte := []
  len    : Option (BitVec 4) := none
  deriving DecidableEq, Repr

/-- The fields of a response that a host can read (10_state.md R23). -/
inductive RspField where
  | terr
  | d0
  | d1
  | d2
  | byte (k : Nat)
  | len
  deriving DecidableEq, Repr

/-- The observable events (20_memory.md R41). -/
inductive Event where
  | cmd (w : Word)
  | cs (level : Level)
  | xfer (kind : Kind) (tx : List Byte) (answer : Answer)
  | rsp (r : Response)
  | reset
  deriving DecidableEq, Repr

/-- The step of a command's rule that follows a frame: where the rule goes on when the frame returns
(10_state.md R16). INIT's steps hold the settings it resolved (41_driver_ops.md R75, R76). -/
inductive Ret where
  | wr
  | rd
  | brd (len : BitVec 4)
  | initId (r : BitVec 2) (o : BitVec 4) (h : BitVec 3)
  | initFilter (r : BitVec 2) (o : BitVec 4) (h : BitVec 3)
  | initRange (r : BitVec 2) (o : BitVec 4) (h : BitVec 3)
  | start
  | getid
  | temp
  | accr
  | accn
  /-- A frame run by itself, with no rule waiting for it (entry 13). -/
  | alone
  deriving DecidableEq, Repr

/-- The position inside a command's rule (10_state.md R16). -/
inductive Pos where
  /-- The command is accepted and none of its rule's steps has run. -/
  | start (i : Instr)
  /-- TXBUF holds the frame that is sent next, by itself (40_framer.md R69, entry 13). -/
  | send
  /-- A transfer request is outstanding (10_state.md R27). -/
  | await (ret : Ret)
  /-- The response is offered on RSP and the host has not taken it (10_state.md R26). -/
  | respond
  deriving DecidableEq, Repr

/-- PHASE (10_state.md R26), with the position that BUSY holds (R16). -/
inductive Phase where
  | idle
  | busy (pos : Pos)
  deriving DecidableEq, Repr

/-- A coming RESET (20_memory.md R41, 70_reset_and_hazards.md R106, entries 4 and 5). -/
structure ResetIn where
  /-- How many more events come before it. -/
  after : Nat
  /-- Whether the transfer that it cuts short, if it cuts one short, is still answered later. -/
  late  : Bool
  deriving DecidableEq, Repr

/-- Why the machine stops with a fault. -/
inductive Fault where
  /-- A response field that the command's rule did not drive was read (10_state.md R23, U3). Raised by
  `Response.read`, the host's read of a response; no command raises it. Safe: the spec's own fault. -/
  | undrivenField
  /-- A byte of TXBUF or RXBUF that holds no value was read (10_state.md R25, R30). Raised by a rule that reads rx(i)
  and by the sending of an empty TXBUF; no run from reset reaches it. Safe: the spec's own fault. -/
  | noBufferValue
  deriving DecidableEq, Repr

/-- Why the machine gives no meaning. -/
inductive Refusal where
  /-- An instruction that exec rejects by name; no arm does. Safe. -/
  | notModelled (mnemonic : String)
  /-- At `Pos.send`, TXBUF holds bytes, and they are none of the three frame shapes (30_encoding.md R48), which no rule
  of the block puts there. Raised by `fetch`; no run from reset reaches it. Safe. -/
  | notAFrame
  deriving DecidableEq, Repr

/-- The state of the machine. -/
structure State where
  /-- The build's parameters, which no step changes (10_state.md R28, entry 6). -/
  params   : Params
  /-- PHASE and the position inside the rule (10_state.md R16, R26). -/
  phase    : Phase
  /-- BOUND (10_state.md R17). -/
  bound    : Bool
  /-- RANGE_SEL (10_state.md R18). -/
  rangeSel : BitVec 2
  /-- ODR_SEL (10_state.md R19). -/
  odrSel   : BitVec 4
  /-- HPF_SEL (10_state.md R20). -/
  hpfSel   : BitVec 3
  /-- CS_N (10_state.md R22). -/
  csN      : Level
  /-- TXBUF; the empty list holds no value (10_state.md R25, R30). -/
  txBuf    : List Byte
  /-- RXBUF; the empty list holds no value (10_state.md R25, R30). -/
  rxBuf    : List Byte
  /-- XREQ: the one outstanding request (10_state.md R21, R27). -/
  xreq     : Option Request
  /-- RSP: the pending response (10_state.md R21, R23). -/
  rsp      : Option Response
  /-- Input: the words the host offers on CMD, the next one first (entry 1). -/
  cmdIn    : List Word
  /-- Input: what the transport answers on XRSP, in the order of the requests it answers (entry 2). -/
  xrspIn   : List Xrsp
  /-- How many of the transport's next answers belong to transfers that a RESET cut short: they are discarded
  (70_reset_and_hazards.md R106, entry 5). -/
  stale    : Nat
  /-- Input: the level of rsp_ready, the host's side of the RSP handshake (entry 8). -/
  rspReady : Bool
  /-- Input: the coming RESETs; the first one's count runs from now, a later one's from the RESET before (entry 4). -/
  resetIn  : List ResetIn
  /-- The event trace so far, oldest event first (20_memory.md R41, entry 18). -/
  trace    : List Event
  /-- The model's own counter: how many `draw()` values have been taken (entry 9). -/
  draws    : Nat
  deriving DecidableEq, Repr

/-- The machine right after reset (10_state.md R30, 70_reset_and_hazards.md R105): the registers at the spec's
values, no input given (entries 2, 4, 5, 8, 16), nothing observed, the reference build (entry 6). -/
def State.reset : State where
  params   := Params.reference
  phase    := .idle
  bound    := false
  rangeSel := 0b01
  odrSel   := 10
  hpfSel   := 0
  csN      := .high
  txBuf    := []
  rxBuf    := []
  xreq     := none
  rsp      := none
  cmdIn    := []
  xrspIn   := []
  stale    := 0
  rspReady := true
  resetIn  := []
  trace    := []
  draws    := 0

/-- What an operation that ends a step answers. -/
abbrev Result := Host.Outcome State Fault Refusal

end Sys2Proof.Machine
end

