-- ==== Sys2Proof/Machine/Flags.lean ====
section
/-! DEFINITION. The block has no flag register (10_state.md R24): the only flags are the status field of a response and which errors a policy surfaces. -/

namespace Sys2Proof.Machine

/-- The status field, 3 bits (60_exceptions.md R93). -/
def Status.code : Status → BitVec 3
  | .ok => 0
  | .transportError => 1
  | .unexpectedDeviceId => 2
  | .notBound => 3
  | .alreadyBound => 4
  | .illegalCommand => 5

/-- Whether START and GETID surface a transport error, and INIT a wrong identity byte (60_exceptions.md R99). -/
def surfacesErrors : ErrPolicy → Bool
  | .baseline => false
  | .hardened => true

end Sys2Proof.Machine
end

