-- ==== Sys2Proof/Machine/Operands.lean ====
section
/-! DEFINITION. The operand forms: register addresses, frames, payload bytes, INIT's resolved settings, and the bytes of a received frame. -/

namespace Sys2Proof.Machine

/-! ### Device register addresses (20_memory.md R34, R35) -/

/-- Identity, expected to read 0xED. -/
def regDEVID : Addr := 0x02
/-- Temperature, high-order byte. -/
def regTEMP2 : Addr := 0x06
/-- Temperature, low-order byte. -/
def regTEMP1 : Addr := 0x07
/-- X axis, bits 19:12. -/
def regXDATA3 : Addr := 0x08
/-- X axis, bits 11:4. -/
def regXDATA2 : Addr := 0x09
/-- X axis, bits 3:0 in its high nibble. -/
def regXDATA1 : Addr := 0x0A
/-- Y axis, bits 19:12. -/
def regYDATA3 : Addr := 0x0B
/-- Y axis, bits 11:4. -/
def regYDATA2 : Addr := 0x0C
/-- Y axis, bits 3:0 in its high nibble. -/
def regYDATA1 : Addr := 0x0D
/-- Z axis, bits 19:12. -/
def regZDATA3 : Addr := 0x0E
/-- Z axis, bits 11:4. -/
def regZDATA2 : Addr := 0x0F
/-- Z axis, bits 3:0 in its high nibble. -/
def regZDATA1 : Addr := 0x10
/-- ODR code in bits 3:0, HPF code in bits 6:4. -/
def regFILTER : Addr := 0x28
/-- Range code in bits 1:0. -/
def regRANGE : Addr := 0x2C
/-- Bit 0 = 0 selects measurement mode. -/
def regPOWER_CTL : Addr := 0x2D

/-- EXPECTED_ID (00_scope.md R7). -/
def expectedId : Byte := 0xED

/-! ### Frames (30_encoding.md R48 to R52) -/

/-- The address byte of a write, `(addr << 1) | 0` (R49). -/
def writeByte (addr : Addr) : Byte := addr.setWidth 8 <<< 1

/-- The address byte of a read, `(addr << 1) | 1` (R49). -/
def readByte (addr : Addr) : Byte := addr.setWidth 8 <<< 1 ||| 1

/-- The write frame (R50). -/
def writeFrame (addr : Addr) (value : Byte) : List Byte := [writeByte addr, value]

/-- The single-read frame (R51). -/
def readFrame (addr : Addr) : List Byte := [readByte addr, 0]

/-- The burst-read frame of `n` bytes (R52). -/
def burstFrame (addr : Addr) (n : Nat) : List Byte := readByte addr :: List.replicate n 0

/-! ### Payload bytes (30_encoding.md R54 to R56) -/

/-- FILTER_BYTE (R54): the MINIMAL variant writes only the ODR code. -/
def filterByte (v : HpfVariant) (o : BitVec 4) (h : BitVec 3) : Byte :=
  match v with
  | .full => h.setWidth 8 <<< 4 ||| o.setWidth 8
  | .minimal => o.setWidth 8

/-- RANGE_BYTE (R55). -/
def rangeByte (r : BitVec 2) : Byte := r.setWidth 8

/-- The POWER_CTL payload that START writes (R56). -/
def measurementByte : Byte := 0x00

/-! ### INIT's settings (41_driver_ops.md R76) -/

/-- The resolved range code; the default is ±2g. -/
def resolveRange (rset : Bool) (rcode : BitVec 2) : BitVec 2 := if rset then rcode else 0b01

/-- The resolved ODR code; the default is 3.906 Hz. -/
def resolveOdr (oset : Bool) (ocode : BitVec 4) : BitVec 4 := if oset then ocode else 10

/-- The resolved HPF code; the default is off, and it is always 0 in the MINIMAL variant. -/
def resolveHpf (v : HpfVariant) (hset : Bool) (hcode : BitVec 3) : BitVec 3 :=
  match v with
  | .full => if hset then hcode else 0
  | .minimal => 0

/-! ### Answers and received frames -/

/-- The answer that XRSP carries for a request (10_state.md R21, 40_framer.md R73): a DUPLEX `ok` brings as many
bytes as were sent. -/
def Xrsp.answer (x : Xrsp) (q : Request) : Answer :=
  if x.ok then
    match q.kind with
    | .duplex => .okRx (x.rx.toList.take q.tx.length)
    | .writeOnly => .okDone
  else .err x.err

/-- The bytes that an answer brings into RXBUF. -/
def Answer.bytes : Answer → List Byte
  | .okRx rx => rx
  | .okDone => []
  | .err _ => []

/-- Byte `i` of a frame buffer, or the fault of reading a byte without a value (10_state.md R25, R30; entries 17 and
23). -/
def bufferByte (buf : List Byte) (i : Nat) : Except Fault Byte :=
  match buf[i]? with
  | some b => .ok b
  | none => .error .noBufferValue

/-- `tx(i)` of the frame just made (00_scope.md R10, 10_state.md R25). -/
def State.tx (s : State) (i : Nat) : Except Fault Byte := bufferByte s.txBuf i

/-- `rx(i)` of the frame just made (00_scope.md R10, 10_state.md R25). -/
def State.rx (s : State) (i : Nat) : Except Fault Byte := bufferByte s.rxBuf i

/-- `rx(i)`, `rx(i + 1)`, ... : `n` bytes. -/
def State.rxBytes (s : State) (i : Nat) : Nat → Except Fault (List Byte)
  | 0 => .ok []
  | n + 1 => do
      let b ← s.rx i
      let bs ← s.rxBytes (i + 1) n
      pure (b :: bs)

/-- The transport's answers to transfers that no RESET cut short: the late answers come first and do not count
(70_reset_and_hazards.md R106, entry 5). -/
def State.live (s : State) : List Xrsp := s.xrspIn.drop s.stale

/-! ### Reading registers -/

/-- HPF_SEL as it reads: hardwired to 0 in the MINIMAL variant (10_state.md R20). -/
def State.readHpfSel (s : State) : BitVec 3 :=
  match s.params.variant with
  | .full => s.hpfSel
  | .minimal => 0

/-- cmd_ready: 1 exactly when PHASE = IDLE (10_state.md R21). -/
def State.cmdReady (s : State) : Bool := s.phase == .idle

end Sys2Proof.Machine
end

