-- ==== Sys2Proof/Machine/Ops.lean ====
section
/-! DEFINITION. The named operations: events, reset, the frame primitive, the response, raising an error (the block's exceptions), accepting a command. -/

namespace Sys2Proof.Machine

/-! ### Events (20_memory.md R41) and the scheduled RESETs (entry 4) -/

/-- One event less until the first scheduled RESET. -/
def countdown : List ResetIn → List ResetIn
  | [] => []
  | r :: later => { r with after := r.after - 1 } :: later

/-- Record one event of the block. -/
def State.record (e : Event) (s : State) : State :=
  { s with trace := s.trace ++ [e], resetIn := countdown s.resetIn }

/-- Whether RESET lands now, before the block's next event. -/
def State.resetDue (s : State) : Bool :=
  match s.resetIn with
  | [] => false
  | r :: _ => r.after == 0

/-- Whether RESET cuts a transfer short that the transport still answers later (entry 5). -/
def State.leavesLate (s : State) : Bool :=
  match s.xreq, s.resetIn with
  | some _, r :: _ => r.late
  | some _, [] => false
  | none, _ => false

/-- RESET (70_reset_and_hazards.md R105, R106): every register at its reset value, CS_N high at once, no response,
the outstanding transfer dropped, and an answer to it that comes later counted as one to discard (entry 5). The
parameters and the inputs are not registers of the block and stay. -/
def State.applyReset (s : State) : State :=
  { s with
    phase    := .idle
    bound    := State.reset.bound
    rangeSel := State.reset.rangeSel
    odrSel   := State.reset.odrSel
    hpfSel   := State.reset.hpfSel
    csN      := State.reset.csN
    txBuf    := State.reset.txBuf
    rxBuf    := State.reset.rxBuf
    xreq     := none
    rsp      := none
    stale    := if s.leavesLate then s.stale + 1 else s.stale
    resetIn  := s.resetIn.tail
    trace    := s.trace ++ [.reset] }

/-- Go on with `k` unless RESET lands here: then nothing of the command is left (R106). -/
def guardReset (k : State → Result) (s : State) : Result :=
  if s.resetDue then .next s.applyReset else k s

/-! ### The response (10_state.md R23, R26; 20_memory.md R43) -/

/-- Offer a response on RSP. -/
def State.offer (r : Response) (s : State) : State := { s with phase := .busy .respond, rsp := some r }

/-- The RSP handshake: the event RSP(r), PHASE back to IDLE, the frame buffers' content gone (R25). -/
def State.taken (r : Response) (s : State) : State :=
  { s.record (.rsp r) with phase := .idle, rsp := none, txBuf := [], rxBuf := [] }

/-- The offered response is taken if the host is ready; otherwise the block stays BUSY. -/
def State.handOver (s : State) : State :=
  match s.rsp with
  | some r => if s.rspReady then s.taken r else s
  | none => s

/-- The RSP handshake, unless RESET lands first. -/
def deliver : State → Result := guardReset fun s => .next s.handOver

/-- `respond(OK, fields)` of 00_scope.md R11; `r` holds the status and the driven fields. -/
def respond (r : Response) (s : State) : Result := deliver (s.offer r)

/-- `respond` with what a rule computed from the received bytes, or the fault of a byte without a value. -/
def respondWith (r : Except Fault Response) (s : State) : Result :=
  match r with
  | .ok r => respond r s
  | .error f => .fault f

/-- The result of a single read, the byte rx(1) (40_framer.md R71, 41_driver_ops.md R79). -/
def byteResponse (s : State) : Except Fault Response := do
  let b ← s.rx 1
  pure { status := .ok, d0 := some (zext32 b) }

/-! ### Raising an error (60_exceptions.md R92): the block's only exceptions -/

/-- TRANSPORT_ERROR with the transport's error value, unchanged (R94). -/
def Response.transportError (e : Terr) : Response := { status := .transportError, terr := some e }

/-- UNEXPECTED_DEVICE_ID with the byte that was read (R95). -/
def Response.unexpectedDeviceId (id : Byte) : Response := { status := .unexpectedDeviceId, d0 := some (zext32 id) }

/-- NOT_BOUND (R96). -/
def Response.notBound : Response := { status := .notBound }

/-- ALREADY_BOUND (R96). -/
def Response.alreadyBound : Response := { status := .alreadyBound }

/-- ILLEGAL_COMMAND (R97). -/
def Response.illegalCommand : Response := { status := .illegalCommand }

/-- OK with no field driven. -/
def Response.done : Response := { status := .ok }

/-- `raise S(info)` (R92): the command ends with the one response that carries the status and the info. No block
register is saved or written and no handler runs; the return from the error is the response handshake. -/
def raise (r : Response) (s : State) : Result := respond r s

/-! ### The frame primitive (40_framer.md R69) -/

/-- CS(0): the line goes low, TXBUF holds the frame, its request is on XREQ. The spec gives XREQ a handshake and does
not say when the transport takes a request; here the request counts as outstanding from CS(0) on, with no ready side
(DESIGN CHOICE, entry 30). -/
def State.openFrame (kind : Kind) (tx : List Byte) (ret : Ret) (s : State) : State :=
  { s.record (.cs .low) with
    csN := .low, txBuf := tx, rxBuf := [], xreq := some { kind := kind, tx := tx }, phase := .busy (.await ret) }

/-- XFER: the transport's answer `x` to the request `q` is taken, its bytes are in RXBUF; the late answers before it
are gone. -/
def State.takeAnswer (q : Request) (x : Xrsp) (later : List Xrsp) (s : State) : State :=
  { s.record (.xfer q.kind q.tx (x.answer q)) with
    xreq := none, xrspIn := later, stale := 0, rxBuf := (x.answer q).bytes }

/-- CS(1): the line goes high. -/
def State.closeFrame (s : State) : State := { s.record (.cs .high) with csN := .high }

/-- The answer to the outstanding request, then CS(1) whatever the answer is, then the rest `k` of the rule. With no
answer given the block stays as it is, BUSY with CS_N = 0 (70_reset_and_hazards.md R118, U14). -/
def exchange (k : Answer → State → Result) (s : State) : Result :=
  match s.xreq, s.live with
  | some q, x :: later => guardReset (fun t => k (x.answer q) t.closeFrame) (s.takeAnswer q x later)
  | some _, [] => .next s
  | none, _ => .next s

/-- Wait for the answer, unless RESET lands first. -/
def awaitAnswer (k : Answer → State → Result) : State → Result := guardReset (exchange k)

/-- `Frame(kind, tx)`, then the rule goes on with `k`; `ret` names that point of the rule for a block that has to
wait for the transport (10_state.md R16). -/
def sendFrame (kind : Kind) (tx : List Byte) (ret : Ret) (k : Answer → State → Result) : State → Result :=
  guardReset fun s => awaitAnswer k (s.openFrame kind tx ret)

/-! ### Register writes -/

/-- INIT's last step (41_driver_ops.md R75): the settings are latched and the instance is bound. HPF_SEL is
hardwired to 0 in the MINIMAL variant (10_state.md R20). -/
def State.latch (r : BitVec 2) (o : BitVec 4) (h : BitVec 3) (s : State) : State :=
  { s with
    rangeSel := r
    odrSel   := o
    hpfSel   := match s.params.variant with
                | .full => h
                | .minimal => 0
    bound    := true }

/-- Count one `draw()`. -/
def State.drawn (s : State) : State := { s with draws := s.draws + 1 }

/-- A frame that ran by itself has returned: no rule goes on and no response is due (entry 13). -/
def State.frameDone (s : State) : State := { s with phase := .idle }

/-! ### Accepting a command (10_state.md R26) -/

/-- The CMD handshake: the word leaves CMD, the event CMD(w), no earlier command's buffers (R25). -/
def State.accept (w : Word) (later : List Word) (s : State) : State :=
  { s.record (.cmd w) with cmdIn := later, txBuf := [], rxBuf := [] }

/-- BUSY at the first step of the command's rule. -/
def State.begin (i : Instr) (s : State) : State := { s with phase := .busy (.start i) }

/-- The check that the sequenced commands other than INIT begin with (60_exceptions.md R96, R98). -/
def needBound (k : State → Result) (s : State) : Result :=
  if s.bound then k s else raise .notBound s

/-! ### Reading a response (10_state.md R23) -/

/-- A value that a host reads from a response. -/
inductive RspValue where
  | terr (e : Terr)
  | word (w : Word)
  | byte (b : Byte)
  | len (n : BitVec 4)
  deriving DecidableEq, Repr

/-- A driven field, or the fault of reading an undriven one (U3). -/
def orUndriven {α : Type} (f : α → RspValue) : Option α → Except Fault RspValue
  | some a => .ok (f a)
  | none => .error .undrivenField

/-- The host's read of one field of a response. -/
def Response.read (r : Response) : RspField → Except Fault RspValue
  | .terr => orUndriven .terr r.terr
  | .d0 => orUndriven .word r.d0
  | .d1 => orUndriven .word r.d1
  | .d2 => orUndriven .word r.d2
  | .byte k => orUndriven .byte r.bytes[k]?
  | .len => orUndriven .len r.len

end Sys2Proof.Machine
end

