-- ==== Sys2Proof/Machine/Driver.lean ====
section
/-! DEFINITION. The sequenced commands INIT, START, GETID (41_driver_ops.md R75 to R80). Each `after…` is the rest of a rule once a frame has returned. -/

namespace Sys2Proof.Machine

/-- INIT after the RANGE frame (R75): latch the settings, bind, respond OK. -/
def afterInitRange (r : BitVec 2) (o : BitVec 4) (h : BitVec 3) (a : Answer) (s : State) : Result :=
  match a with
  | .err e => raise (.transportError e) s
  | .okRx _ => respond .done (s.latch r o h)
  | .okDone => respond .done (s.latch r o h)

/-- INIT after the FILTER frame (R75): the RANGE frame. -/
def afterInitFilter (r : BitVec 2) (o : BitVec 4) (h : BitVec 3) (a : Answer) (s : State) : Result :=
  match a with
  | .err e => raise (.transportError e) s
  | .okRx _ =>
      sendFrame .writeOnly (writeFrame regRANGE (rangeByte r)) (.initRange r o h) (afterInitRange r o h) s
  | .okDone =>
      sendFrame .writeOnly (writeFrame regRANGE (rangeByte r)) (.initRange r o h) (afterInitRange r o h) s

/-- INIT's identity check (R77) and then the FILTER frame (R75). -/
def checkId (r : BitVec 2) (o : BitVec 4) (h : BitVec 3) (s : State) : Result :=
  match s.rx 1 with
  | .error f => .fault f
  | .ok id =>
      if id ≠ expectedId ∧ surfacesErrors s.params.policy = true then raise (.unexpectedDeviceId id) s
      else
        sendFrame .writeOnly (writeFrame regFILTER (filterByte s.params.variant o h)) (.initFilter r o h)
          (afterInitFilter r o h) s

/-- INIT after the identity read (R75). -/
def afterInitId (r : BitVec 2) (o : BitVec 4) (h : BitVec 3) (a : Answer) (s : State) : Result :=
  match a with
  | .err e => raise (.transportError e) s
  | .okRx _ => checkId r o h s
  | .okDone => checkId r o h s

/-- INIT with its settings resolved (R75, R76): the identity read. -/
def initWith (r : BitVec 2) (o : BitVec 4) (h : BitVec 3) (s : State) : Result :=
  sendFrame .duplex (readFrame regDEVID) (.initId r o h) (afterInitId r o h) s

/-- INIT (R75). -/
def execInit (rset : Bool) (rcode : BitVec 2) (oset : Bool) (ocode : BitVec 4) (hset : Bool) (hcode : BitVec 3)
    (s : State) : Result :=
  if s.bound then raise .alreadyBound s
  else initWith (resolveRange rset rcode) (resolveOdr oset ocode) (resolveHpf s.params.variant hset hcode) s

/-- START after its frame (R78): BASELINE discards the error. -/
def afterStart (a : Answer) (s : State) : Result :=
  match a with
  | .err e => if surfacesErrors s.params.policy then raise (.transportError e) s else respond .done s
  | .okRx _ => respond .done s
  | .okDone => respond .done s

/-- START (R78). -/
def execStart (s : State) : Result :=
  needBound (sendFrame .writeOnly (writeFrame regPOWER_CTL measurementByte) .start afterStart) s

/-- GETID after its frame (R79): BASELINE answers OK with a drawn byte after an error. -/
def afterGetid (a : Answer) (s : State) : Result :=
  match a with
  | .err e =>
      if surfacesErrors s.params.policy then raise (.transportError e) s
      else respond { status := .ok, d0 := some (zext32 (Config.draw s.draws)) } s.drawn
  | .okRx _ => respondWith (byteResponse s) s
  | .okDone => respondWith (byteResponse s) s

/-- GETID (R79). -/
def execGetid (s : State) : Result :=
  needBound (sendFrame .duplex (readFrame regDEVID) .getid afterGetid) s

end Sys2Proof.Machine
end

