-- ==== Sys2Proof/Machine/Framer.lean ====
section
/-! DEFINITION. The raw framing commands WR, RD, BRD (40_framer.md R70 to R74). Each `after…` is the rest of a rule once its frame has returned. -/

namespace Sys2Proof.Machine

/-- WR after its frame. -/
def afterWr (a : Answer) (s : State) : Result :=
  match a with
  | .err e => raise (.transportError e) s
  | .okRx _ => respond .done s
  | .okDone => respond .done s

/-- WR (R70). -/
def execWr (addr : Addr) (data : Byte) (s : State) : Result :=
  sendFrame .writeOnly (writeFrame addr data) .wr afterWr s

/-- RD after its frame. -/
def afterRd (a : Answer) (s : State) : Result :=
  match a with
  | .err e => raise (.transportError e) s
  | .okRx _ => respondWith (byteResponse s) s
  | .okDone => respondWith (byteResponse s) s

/-- RD (R71). -/
def execRd (addr : Addr) (s : State) : Result :=
  sendFrame .duplex (readFrame addr) .rd afterRd s

/-- BRD's result: bytes[k] = rx(1 + k) for k = 0 .. N-1. -/
def burstResponse (len : BitVec 4) (s : State) : Except Fault Response := do
  let bytes ← s.rxBytes 1 len.toNat
  pure { status := .ok, len := some len, bytes := bytes }

/-- BRD after its frame. -/
def afterBrd (len : BitVec 4) (a : Answer) (s : State) : Result :=
  match a with
  | .err e => raise (.transportError e) s
  | .okRx _ => respondWith (burstResponse len s) s
  | .okDone => respondWith (burstResponse len s) s

/-- BRD (R72). -/
def execBrd (addr : Addr) (len : BitVec 4) (s : State) : Result :=
  sendFrame .duplex (burstFrame addr len.toNat) (.brd len) (afterBrd len) s

end Sys2Proof.Machine
end

