-- ==== Sys2Proof/Machine/Float.lean ====
section
/-! DEFINITION. IEEE 754 binary32: conversion, division, multiplication, each rounded once to nearest with ties to even (42_decode.md R84; PRESUMED, entry 12). -/

namespace Sys2Proof.Machine

/-- The biased exponent field, bits 30:23. -/
def f32Exp (a : Word) : Nat := (a.extractLsb' 23 8).toNat

/-- The fraction field, bits 22:0. -/
def f32Frac (a : Word) : Nat := (a.extractLsb' 0 23).toNat

/-- The exponent that scales the significand: a subnormal's is that of the smallest normal. -/
def f32Scale (a : Word) : Nat := max 1 (f32Exp a)

/-- The significand, with the hidden bit of a normal number. A finite pattern's magnitude is
`f32Sig a * 2 ^ f32Scale a / 2 ^ 150`. -/
def f32Sig (a : Word) : Nat := if f32Exp a = 0 then f32Frac a else 2 ^ 23 + f32Frac a

/-- NaN: the largest exponent field with a nonzero fraction. -/
def f32IsNaN (a : Word) : Bool := f32Exp a == 255 && f32Frac a != 0

/-- Infinity: the largest exponent field with a zero fraction. -/
def f32IsInf (a : Word) : Bool := f32Exp a == 255 && f32Frac a == 0

/-- Zero of either sign. -/
def f32IsZero (a : Word) : Bool := f32Exp a == 0 && f32Frac a == 0

/-- A pattern from its sign and its 31 magnitude bits. -/
def f32Pack (neg : Bool) (magnitude : Nat) : Word :=
  BitVec.ofBool neg ++ BitVec.ofNat 31 magnitude

/-- Infinity's magnitude bits. -/
def f32InfBits : Nat := 0x7F800000

/-- `a / b` rounded to the nearest integer, ties to even. -/
def nearestEven (a b : Nat) : Nat :=
  let q := a / b
  let r := a % b
  if b < 2 * r ∨ (2 * r = b ∧ q % 2 = 1) then q + 1 else q

/-- The exponent at which `num / den` is rounded: `num / den * 2 ^ 150 / 2 ^ e` is below `2 ^ 24`, and at least
`2 ^ 23` unless `e` is 1, where subnormals are. -/
def roundExp (num den : Nat) : Nat := max 1 (Nat.log2 (num * 2 ^ 150 / den) - 23)

/-- The magnitude bits of `num / den` rounded once to binary32; past the largest finite value, infinity. The
hidden bit of a normal significand, and a carry out of rounding, add into the exponent field. -/
def roundBits (num den : Nat) : Nat :=
  let e := roundExp num den
  min f32InfBits ((e - 1) * 2 ^ 23 + nearestEven (num * 2 ^ 150) (den * 2 ^ e))

/-- `± num / den` rounded once to binary32. -/
def roundF32 (neg : Bool) (num den : Nat) : Word := f32Pack neg (roundBits num den)

/-- `f32(i)` of an i32 (R84). -/
def f32OfI32 (i : Word) : Word := roundF32 i.msb i.toInt.natAbs 1

/-- `divRNE(a, b)` (R84). -/
def divRNE (a b : Word) : Word :=
  let neg := a.msb != b.msb
  if f32IsNaN a || f32IsNaN b then Config.nanBits a b
  else if f32IsInf a then (if f32IsInf b then Config.nanBits a b else f32Pack neg f32InfBits)
  else if f32IsInf b then f32Pack neg 0
  else if f32IsZero b then (if f32IsZero a then Config.nanBits a b else f32Pack neg f32InfBits)
  else roundF32 neg (f32Sig a * 2 ^ f32Scale a) (f32Sig b * 2 ^ f32Scale b)

/-- `mulRNE(a, b)` (R84). -/
def mulRNE (a b : Word) : Word :=
  let neg := a.msb != b.msb
  if f32IsNaN a || f32IsNaN b then Config.nanBits a b
  else if f32IsInf a || f32IsInf b then
    (if f32IsZero a || f32IsZero b then Config.nanBits a b else f32Pack neg f32InfBits)
  else roundF32 neg (f32Sig a * 2 ^ f32Scale a * (f32Sig b * 2 ^ f32Scale b)) (2 ^ 150 * 2 ^ 150)

end Sys2Proof.Machine
end

