-- ==== Sys2Proof/Machine/Decoders.lean ====
section
/-! DEFINITION. The three combinational decoders: SEXT20 (42_decode.md R81), TEMP12 (R83), SCALE (R84 to R86). -/

namespace Sys2Proof.Machine

/-- `SEXT20(b0, b1, b2)` (R81): the 20-bit field at the top of a word, shifted down arithmetically by 12. -/
def sext20 (b0 b1 b2 : Byte) : Word :=
  (zext32 b0 <<< 24 ||| zext32 b1 <<< 16 ||| zext32 (b2 &&& 0xF0) <<< 8).sshiftRight 12

/-- `TEMP12(t2, t1)` (R83), a u16; the mask is 0x0F (90_conflicts.md C3). -/
def temp12 (t2 t1 : Byte) : BitVec 16 :=
  (t2 &&& 0x0F).setWidth 16 <<< 8 ||| t1.setWidth 16

/-- D32 = 524287.0 (R85). -/
def d32 : Word := 0x48FFFFE0

/-- FS32(code) (R85); the code 0b00 has no constant (entry 10). -/
def fs32 (code : BitVec 2) : Word :=
  if code = 0b01 then 0x4003126F
  else if code = 0b10 then 0x4083126F
  else if code = 0b11 then 0x4103126F
  else Config.fullScaleNone

/-- `SCALE(raw, code)` (R86): the division is rounded before the multiplication. -/
def scale (raw : Word) (code : BitVec 2) : Word := mulRNE (divRNE (f32OfI32 raw) d32) (fs32 code)

end Sys2Proof.Machine
end

