-- ==== Sys2Proof/Machine/Sample.lean ====
section
/-! DEFINITION. The sampling commands TEMP, ACCR, ACCN (42_decode.md R88 to R91). Each `after…` is the rest of a rule once its frame has returned. -/

namespace Sys2Proof.Machine

/-- TEMP's result: the u16 zero-extended to a word (R88, 92_eei_decisions.md D33). -/
def tempResponse (s : State) : Except Fault Response := do
  let t2 ← s.rx 1
  let t1 ← s.rx 2
  pure { status := .ok, d0 := some ((temp12 t2 t1).setWidth 32) }

/-- TEMP after its frame. -/
def afterTemp (a : Answer) (s : State) : Result :=
  match a with
  | .err e => raise (.transportError e) s
  | .okRx _ => respondWith (tempResponse s) s
  | .okDone => respondWith (tempResponse s) s

/-- TEMP (R88): a two-byte burst from TEMP2. -/
def execTemp (s : State) : Result :=
  needBound (sendFrame .duplex (burstFrame regTEMP2 2) .temp afterTemp) s

/-- One lane's raw sample, from the three bytes that start at rx(i) (R89, R91). -/
def lane (s : State) (i : Nat) : Except Fault Word := do
  let b0 ← s.rx i
  let b1 ← s.rx (i + 1)
  let b2 ← s.rx (i + 2)
  pure (sext20 b0 b1 b2)

/-- ACCR's result: X from rx(1..3), Y from rx(4..6), Z from rx(7..9) (R89). -/
def accrResponse (s : State) : Except Fault Response := do
  let x ← lane s 1
  let y ← lane s 4
  let z ← lane s 7
  pure { status := .ok, d0 := some x, d1 := some y, d2 := some z }

/-- ACCR after its frame. -/
def afterAccr (a : Answer) (s : State) : Result :=
  match a with
  | .err e => raise (.transportError e) s
  | .okRx _ => respondWith (accrResponse s) s
  | .okDone => respondWith (accrResponse s) s

/-- ACCR (R89): a nine-byte burst from XDATA3. -/
def execAccr (s : State) : Result :=
  needBound (sendFrame .duplex (burstFrame regXDATA3 9) .accr afterAccr) s

/-- ACCN's result: every lane scaled with the one RANGE_SEL (R90, R91). -/
def accnResponse (s : State) : Except Fault Response := do
  let x ← lane s 1
  let y ← lane s 4
  let z ← lane s 7
  pure
    { status := .ok
      d0 := some (scale x s.rangeSel)
      d1 := some (scale y s.rangeSel)
      d2 := some (scale z s.rangeSel) }

/-- ACCN after its frame. -/
def afterAccn (a : Answer) (s : State) : Result :=
  match a with
  | .err e => raise (.transportError e) s
  | .okRx _ => respondWith (accnResponse s) s
  | .okDone => respondWith (accnResponse s) s

/-- ACCN (R90): the same frame as ACCR. -/
def execAccn (s : State) : Result :=
  needBound (sendFrame .duplex (burstFrame regXDATA3 9) .accn afterAccn) s

end Sys2Proof.Machine
end

