-- ==== Sys2Proof/Machine/Wire.lean ====
section
/-! DEFINITION. Where a rule goes on when its frame returns (10_state.md R16), and the three wire frames as instructions of the frame primitive (30_encoding.md R50 to R52, 40_framer.md R69). -/

namespace Sys2Proof.Machine

/-- A frame run by itself has returned; its answer is in the trace and in RXBUF (entry 13). -/
def afterAlone (_ : Answer) (s : State) : Result := .next s.frameDone

/-- The rest of the rule that made the frame. -/
def resumeAt : Ret → Answer → State → Result
  | .wr => afterWr
  | .rd => afterRd
  | .brd len => afterBrd len
  | .initId r o h => afterInitId r o h
  | .initFilter r o h => afterInitFilter r o h
  | .initRange r o h => afterInitRange r o h
  | .start => afterStart
  | .getid => afterGetid
  | .temp => afterTemp
  | .accr => afterAccr
  | .accn => afterAccn
  | .alone => afterAlone

/-- One frame by itself. -/
def runFrame (kind : Kind) (tx : List Byte) : State → Result := sendFrame kind tx .alone afterAlone

/-- WRFRAME (30_encoding.md R50). -/
def execWrframe (addr : Addr) (data : Byte) (s : State) : Result :=
  runFrame .writeOnly (writeFrame addr data) s

/-- RDFRAME (30_encoding.md R51). -/
def execRdframe (addr : Addr) (s : State) : Result :=
  runFrame .duplex (readFrame addr) s

/-- BRDFRAME (30_encoding.md R52). -/
def execBrdframe (addr : Addr) (n : BitVec 4) (s : State) : Result :=
  runFrame .duplex (burstFrame addr n.toNat) s

end Sys2Proof.Machine
end

