-- ==== Sys2Proof/Machine/Dispatch.lean ====
section
/-! DEFINITION. One arm per constructor of Instr. -/

namespace Sys2Proof.Machine

def exec (i : Instr) (s : State) : Host.Outcome State Fault Refusal :=
  match i with
  | .wr addr data => Sys2Proof.Machine.execWr addr data s
  | .rd addr => Sys2Proof.Machine.execRd addr s
  | .brd addr len => Sys2Proof.Machine.execBrd addr len s
  | .init rset rcode oset ocode hset hcode => Sys2Proof.Machine.execInit rset rcode oset ocode hset hcode s
  | .start => Sys2Proof.Machine.execStart s
  | .getid => Sys2Proof.Machine.execGetid s
  | .temp => Sys2Proof.Machine.execTemp s
  | .accr => Sys2Proof.Machine.execAccr s
  | .accn => Sys2Proof.Machine.execAccn s
  | .wrframe addr data => Sys2Proof.Machine.execWrframe addr data s
  | .rdframe addr => Sys2Proof.Machine.execRdframe addr s
  | .brdframe addr n => Sys2Proof.Machine.execBrdframe addr n s

end Sys2Proof.Machine
end

