-- ==== Sys2Proof/Machine/Fetch.lean ====
section
/-! DEFINITION. What a step finds to do: a RESET, an accepted command, a frame to send, an answer or a handshake to wait for; and placing an instruction where it is fetched. -/

namespace Sys2Proof.Machine

/-- What a step finds. -/
inductive Fetched where
  /-- An instruction runs from this state. -/
  | run (i : Instr) (s : State)
  /-- What the step answers, with no instruction to begin: RESET, a refused word's response, a wait that goes on or
  ends, bytes that cannot be sent. -/
  | go (o : Result)
  deriving Repr

/-- A command word taken from CMD (10_state.md R26): decoded before any other check (60_exceptions.md R97, R98);
an illegal word gets its ILLEGAL_COMMAND response and nothing else. -/
def fetchCommand (w : Word) (later : List Word) (s : State) : Fetched :=
  match decode s.params (.word w) with
  | .ok i => .run i ((s.accept w later).begin i)
  | .error _ => .go (raise .illegalCommand (s.accept w later))

/-- The frame in TXBUF, which is about to be sent (40_framer.md R69); its first byte is `tx(0)`. -/
def fetchFrame (s : State) : Fetched :=
  match s.tx 0 with
  | .error f => .go (.fault f)
  | .ok _ =>
      match decode s.params (.frame s.txBuf) with
      | .ok i => .run i s
      | .error _ => .go (.refused .notAFrame)

/-- What the position holds (10_state.md R16, R26, R27). IDLE with no word offered, an unanswered request and an
untaken response are waits: the state stays as it is (entry 19). -/
def fetchAt (s : State) : Fetched :=
  match s.phase with
  | .idle =>
      match s.cmdIn with
      | [] => .go (.next s)
      | w :: later => fetchCommand w later s
  | .busy (.start i) => .run i s
  | .busy .send => fetchFrame s
  | .busy (.await ret) => .go (awaitAnswer (resumeAt ret) s)
  | .busy .respond => .go (deliver s)

/-- A RESET that is due comes first (70_reset_and_hazards.md R105). -/
def fetch (s : State) : Fetched :=
  if s.resetDue then .go (.next s.applyReset) else fetchAt s

/-- The block at rest between two commands, with no RESET due: CS_N high, nothing outstanding, nothing pending. -/
def State.atRest (s : State) : State :=
  { s with phase := .idle, csN := .high, xreq := none, rsp := none, resetIn := [] }

/-- The code of an instruction placed where the next step fetches it: a command word is the next one on CMD, a
frame is in TXBUF with the block about to send it (entry 16). -/
def State.place (c : Code) (s : State) : State :=
  match c with
  | .word w => { s.atRest with cmdIn := w :: s.cmdIn }
  | .frame bytes => { s.atRest with txBuf := bytes, phase := .busy .send }

end Sys2Proof.Machine
end

