-- ==== Sys2Proof/Machine/Step.lean ====
section
/-! DEFINITION. One step of the machine, and the host's placing of an instruction word. -/

namespace Sys2Proof.Machine

/-- One step: what `fetch` finds is run. A command runs from its CMD event to its RSP event, or up to the point
where it has to wait for the transport or the host (entry 1). -/
def step (s : State) : Host.Outcome State Fault Refusal :=
  match fetch s with
  | .run i t => exec i t
  | .go o => o

/-- `s` with the table's instruction word placed where the next step fetches it (entries 15, 16). -/
def State.withFetchWord (s : State) (nbits w : Nat) : State := s.place (tableCode nbits w)

end Sys2Proof.Machine
end

