-- ==== Sys2Proof/Machine/Assembler.lean ====
section
/-! DEFINITION. The assembler syntax of the commands (30_encoding.md R67): a line of characters to an instruction. There are no pseudo-instructions (R68). -/

namespace Sys2Proof.Machine

/-! ### Tokens -/

/-- A token that is not empty goes in front. -/
def pushToken (token : List Char) (rest : List (List Char)) : List (List Char) :=
  match token with
  | [] => rest
  | _ :: _ => token :: rest

/-- The tokens of a line: separated by spaces, a comma is a token of its own. -/
def tokenize (token : List Char) : List Char → List (List Char)
  | [] => pushToken token []
  | ' ' :: cs => pushToken token (tokenize [] cs)
  | ',' :: cs => pushToken token ([','] :: tokenize [] cs)
  | c :: cs => tokenize (token ++ [c]) cs

/-! ### Numbers: decimal, 0x hexadecimal, 0b binary -/

/-- The value of a hexadecimal digit, in either case. -/
def digitValue (c : Char) : Option Nat :=
  let n := c.toNat
  if 48 ≤ n ∧ n ≤ 57 then some (n - 48)
  else if 65 ≤ n ∧ n ≤ 70 then some (n - 55)
  else if 97 ≤ n ∧ n ≤ 102 then some (n - 87)
  else none

/-- Digits in a base, from the value read so far. -/
def digits (base acc : Nat) : List Char → Option Nat
  | [] => some acc
  | c :: cs =>
      match digitValue c with
      | some d => if d < base then digits base (acc * base + d) cs else none
      | none => none

/-- Digits in a base, at least one of them. -/
def digits1 (base : Nat) : List Char → Option Nat
  | [] => none
  | c :: cs => digits base 0 (c :: cs)

/-- A number. -/
def number : List Char → Option Nat
  | '0' :: 'x' :: cs => digits1 16 cs
  | '0' :: 'b' :: cs => digits1 2 cs
  | cs => digits1 10 cs

/-- A number below a bound. -/
def numberBelow (bound : Nat) (t : List Char) : Option Nat :=
  match number t with
  | some n => if n < bound then some n else none
  | none => none

/-! ### Operands -/

/-- The register names (20_memory.md R34, R35). -/
def registerNames : List (List Char × Addr) :=
  [(['D','E','V','I','D'], regDEVID), (['T','E','M','P','2'], regTEMP2), (['T','E','M','P','1'], regTEMP1),
   (['X','D','A','T','A','3'], regXDATA3), (['X','D','A','T','A','2'], regXDATA2), (['X','D','A','T','A','1'], regXDATA1),
   (['Y','D','A','T','A','3'], regYDATA3), (['Y','D','A','T','A','2'], regYDATA2), (['Y','D','A','T','A','1'], regYDATA1)] ++
  [(['Z','D','A','T','A','3'], regZDATA3), (['Z','D','A','T','A','2'], regZDATA2), (['Z','D','A','T','A','1'], regZDATA1),
   (['F','I','L','T','E','R'], regFILTER), (['R','A','N','G','E'], regRANGE),
   (['P','O','W','E','R','_','C','T','L'], regPOWER_CTL)]

/-- An address: a register name or a 7-bit number. -/
def address (t : List Char) : Option Addr :=
  match registerNames.lookup t with
  | some a => some a
  | none =>
      match numberBelow 128 t with
      | some n => some (BitVec.ofNat 7 n)
      | none => none

/-- A range value, ±2g, ±4g or ±8g, also without the sign (30_encoding.md R59, R67). -/
def rangeValue : List Char → Option (BitVec 2)
  | '±' :: cs => rangeDigits cs
  | cs => rangeDigits cs
where
  /-- The digit and the unit. -/
  rangeDigits : List Char → Option (BitVec 2)
    | ['2', 'g'] => some 0b01
    | ['4', 'g'] => some 0b10
    | ['8', 'g'] => some 0b11
    | _ => none

/-- What follows a key in a token. -/
def afterKey : List Char → List Char → Option (List Char)
  | [], t => some t
  | k :: ks, c :: cs => if k = c then afterKey ks cs else none
  | _ :: _, [] => none

/-- An optional `key=value` at the head of the tokens: whether it is there, its value (0 if not), and the rest. -/
def takeOption {w : Nat} (key : List Char) (value : List Char → Option (BitVec w)) :
    List (List Char) → Option (Bool × BitVec w × List (List Char))
  | [] => some (false, 0, [])
  | t :: rest =>
      match afterKey key t with
      | none => some (false, 0, t :: rest)
      | some v =>
          match value v with
          | some b => some (true, b, rest)
          | none => none

/-- INIT's options, in the order of the syntax; each omitted option is unset (R63, R67). -/
def assembleInit (ts : List (List Char)) : Option Instr :=
  match takeOption ['r','a','n','g','e','='] rangeValue ts with
  | none => none
  | some (rset, r, ts1) =>
      match takeOption ['o','d','r','='] (fun t => (numberBelow 11 t).map (BitVec.ofNat 4)) ts1 with
      | none => none
      | some (oset, o, ts2) =>
          match takeOption ['h','p','f','='] (fun t => (numberBelow 7 t).map (BitVec.ofNat 3)) ts2 with
          | some (hset, h, []) => some (.init rset r oset o hset h)
          | _ => none

/-- `WR <addr>, <value>`. -/
def assembleWr (a v : List Char) : Option Instr :=
  match address a, numberBelow 256 v with
  | some addr, some n => some (.wr addr (BitVec.ofNat 8 n))
  | _, _ => none

/-- `BRD <addr>, <n>`, with a nonzero n of LEN's 4 bits; whether it is at most P_MAX_BURST, the decoder says. -/
def assembleBrd (a v : List Char) : Option Instr :=
  match address a, numberBelow 16 v with
  | some addr, some n => if n = 0 then none else some (.brd addr (BitVec.ofNat 4 n))
  | _, _ => none

/-- One line of tokens. -/
def assembleTokens : List (List Char) → Option Instr
  | [['W','R'], a, [','], v] => assembleWr a v
  | [['R','D'], a] => (address a).map .rd
  | [['B','R','D'], a, [','], n] => assembleBrd a n
  | ['I','N','I','T'] :: ts => assembleInit ts
  | [['S','T','A','R','T']] => some .start
  | [['G','E','T','I','D']] => some .getid
  | [['T','E','M','P']] => some .temp
  | [['A','C','C','R']] => some .accr
  | [['A','C','C','N']] => some .accn
  | _ => none

/-- One line of assembler text (R67); a line that is none of its forms is not assembled. -/
def assemble (line : String) : Option Instr := assembleTokens (tokenize [] line.toList)

end Sys2Proof.Machine
end

