-- ==== Sys2Proof/Safety.lean ====
section
/-! DEFINITION. The terms claims use: legal states, the trace's shape, and the states in which commands end. -/

namespace Sys2Proof.Machine

/-! ### The settings registers (10_state.md R17 to R20, R31) -/

/-- A legal triple of settings for a build: range code not 0b00, ODR code at most 10, HPF code at most 6 and 0 in
the MINIMAL variant. -/
def settingsLegal (v : HpfVariant) (r : BitVec 2) (o : BitVec 4) (h : BitVec 3) : Bool :=
  r != 0 && o.toNat ≤ 10 && h.toNat ≤ 6 && (v == .full || h == 0)

/-- The settings that a waiting INIT will latch are legal, and INIT waits only while the block is unbound. -/
def Ret.legal (v : HpfVariant) (bound : Bool) : Ret → Bool
  | .initId r o h => !bound && settingsLegal v r o h
  | .initFilter r o h => !bound && settingsLegal v r o h
  | .initRange r o h => !bound && settingsLegal v r o h
  | _ => true

/-- What a position holds is legal. -/
def Phase.legal (p : Params) (bound : Bool) : Phase → Bool
  | .idle => true
  | .busy (.start i) => i.wellFormed p
  | .busy .send => true
  | .busy (.await ret) => ret.legal p.variant bound
  | .busy .respond => true

/-- INVARIANT: the settings registers hold legal codes, and so does whatever the running command will write. -/
def State.settingsOk (s : State) : Bool :=
  settingsLegal s.params.variant s.rangeSel s.odrSel s.hpfSel && s.phase.legal s.params s.bound

/-! ### The channels (10_state.md R21, R22, R26, R27) -/

/-- A request that is one of the three frame shapes with its own transfer kind (30_encoding.md R48). -/
def Request.wellShaped (q : Request) : Bool :=
  match q.kind, decodeFrame q.tx with
  | .writeOnly, .ok (.wrframe _ _) => true
  | .duplex, .ok (.rdframe _) => true
  | .duplex, .ok (.brdframe _ _) => true
  | _, _ => false

/-- The request whose answer a waiting rule reads: its transfer kind, and for a read how many bytes it sends. -/
def Ret.fits : Ret → Request → Bool
  | .wr, q => q.kind == .writeOnly
  | .rd, q => q.kind == .duplex && q.tx.length == 2
  | .brd len, q => q.kind == .duplex && q.tx.length == 1 + len.toNat
  | .initId _ _ _, q => q.kind == .duplex && q.tx.length == 2
  | .initFilter _ _ _, q => q.kind == .writeOnly
  | .initRange _ _ _, q => q.kind == .writeOnly
  | .start, q => q.kind == .writeOnly
  | .getid, q => q.kind == .duplex && q.tx.length == 2
  | .temp, q => q.kind == .duplex && q.tx.length == 3
  | .accr, q => q.kind == .duplex && q.tx.length == 10
  | .accn, q => q.kind == .duplex && q.tx.length == 10
  | .alone, _ => true

/-- The bytes are one of the three frame shapes (30_encoding.md R48). -/
def isFrame (bytes : List Byte) : Bool :=
  match decodeFrame bytes with
  | .ok _ => true
  | .error _ => false

/-- The outputs that belong to a position: CS_N low with one well-shaped request, the one that the rule waits for
and the frame in TXBUF, exactly while a transfer is awaited; a pending response exactly while one is offered; a frame
in TXBUF that is about to be sent. -/
def State.channelsOk (s : State) : Bool :=
  match s.phase with
  | .busy (.await ret) =>
      s.csN == .low && s.rsp.isNone &&
        (match s.xreq with
         | some q => q.wellShaped && ret.fits q && q.tx == s.txBuf
         | none => false)
  | .busy .respond => s.csN == .high && s.xreq.isNone && s.rsp.isSome
  | .busy (.start i) => s.csN == .high && s.xreq.isNone && s.rsp.isNone && i.wellFormed s.params
  | .busy .send => s.csN == .high && s.xreq.isNone && s.rsp.isNone && isFrame s.txBuf
  | .idle => s.csN == .high && s.xreq.isNone && s.rsp.isNone

/-! ### The event trace (20_memory.md R41, R42, R43; 70_reset_and_hazards.md R111) -/

/-- Where a trace stands in the language `CMD · (CS(0) · XFER · CS(1))* · RSP`, cut and separated by RESETs. -/
inductive Bracket where
  /-- Between commands. -/
  | outside
  /-- In a command, no bracket open. -/
  | inside
  /-- After CS(0), before the XFER. -/
  | opened
  /-- After the XFER, before CS(1). -/
  | moved
  deriving DecidableEq, Repr

/-- The next place in the language, or none where the event is not allowed. -/
def Bracket.next : Bracket → Event → Option Bracket
  | _, .reset => some .outside
  | .outside, .cmd _ => some .inside
  | .inside, .cs .low => some .opened
  | .opened, .xfer _ _ _ => some .moved
  | .moved, .cs .high => some .inside
  | .inside, .rsp _ => some .outside
  | _, _ => none

/-- Where a trace ends in the language, if all of it is allowed. -/
def bracketAfter (b : Option Bracket) : List Event → Option Bracket
  | [] => b
  | e :: es => bracketAfter (b.bind (·.next e)) es

/-- The place in the language that a phase stands for. -/
def Phase.bracket : Phase → Bracket
  | .idle => .outside
  | .busy (.await _) => .opened
  | .busy (.start _) => .inside
  | .busy .send => .inside
  | .busy .respond => .inside

/-- Whether what runs is a command's rule, and not a frame run by itself (entry 13). -/
def Phase.commanded : Phase → Bool
  | .idle => true
  | .busy (.start i) => i.isCommand
  | .busy .send => false
  | .busy (.await ret) => ret != .alone
  | .busy .respond => true

/-- INVARIANT: the trace is a word of the language, ending where the phase says. -/
def State.traceOk (s : State) : Bool :=
  s.phase.commanded && bracketAfter (some .outside) s.trace == some s.phase.bracket

/-- Whether an answer has the form that the transfer contract gives it for a request (40_framer.md R73). -/
def answerFits (q : Request) : Answer → Bool
  | .okRx rx => q.kind == .duplex && rx.length == q.tx.length
  | .okDone => q.kind == .writeOnly
  | .err _ => true

/-- An XFER event carries a well-shaped frame and an answer of the right form. -/
def Event.frameOk : Event → Bool
  | .xfer kind tx a => ({ kind := kind, tx := tx } : Request).wellShaped && answerFits { kind := kind, tx := tx } a
  | .cmd _ => true
  | .cs _ => true
  | .rsp _ => true
  | .reset => true

/-- INVARIANT: every frame sent so far was one of the three shapes, answered in its form. -/
def State.framesOk (s : State) : Bool := s.channelsOk && s.trace.all Event.frameOk

/-! ### What statements assume and conclude -/

/-- No RESET is coming, and the host takes responses. -/
abbrev State.Calm (s : State) : Prop := s.resetIn = [] ∧ s.rspReady = true

/-- One frame's bracket (40_framer.md R69). -/
def bracket (kind : Kind) (tx : List Byte) (a : Answer) : List Event :=
  [.cs .low, .xfer kind tx a, .cs .high]

/-- A command that sent frames has ended: the events `es`, then RSP(r); IDLE, the line high, the buffers gone,
`later` the answers left, none of them late; everything else as before. -/
def State.ended (es : List Event) (r : Response) (later : List Xrsp) (s : State) : State :=
  { s with
    phase  := .idle
    csN    := .high
    txBuf  := []
    rxBuf  := []
    xreq   := none
    rsp    := none
    xrspIn := later
    stale  := 0
    trace  := s.trace ++ es ++ [.rsp r] }

/-- A command that sent no frame has ended with RSP(r): IDLE, the buffers gone; everything else as before. -/
def State.endedAtOnce (r : Response) (s : State) : State :=
  { s with
    phase := .idle
    txBuf := []
    rxBuf := []
    rsp   := none
    trace := s.trace ++ [.rsp r] }

/-- A frame of the command has been opened after the events `es`, and its transfer is not answered. -/
def State.waiting (es : List Event) (kind : Kind) (tx : List Byte) (ret : Ret) (s : State) : State :=
  { s with
    phase  := .busy (.await ret)
    csN    := .low
    txBuf  := tx
    rxBuf  := []
    xreq   := some { kind := kind, tx := tx }
    trace  := s.trace ++ es ++ [.cs .low] }

/-- The answer of a write transfer. -/
def Xrsp.writeAnswer (x : Xrsp) : Answer := if x.ok then .okDone else .err x.err

/-- The answer of a read transfer of `n` bytes. -/
def Xrsp.readAnswer (x : Xrsp) (n : Nat) : Answer := if x.ok then .okRx (x.rx.toList.take n) else .err x.err

/-- Whether RESET has just been applied: the trace ends in a RESET event. -/
def State.justReset (s : State) : Bool := s.trace.getLast? == some .reset

/-- The settings registers and BOUND (10_state.md R17 to R20). -/
def State.settings (s : State) : Bool × BitVec 2 × BitVec 4 × BitVec 3 := (s.bound, s.rangeSel, s.odrSel, s.hpfSel)

/-- The registers of the block that RESET sets have their reset values (10_state.md R30): the phase, BOUND, the
settings, CS_N, the buffers, no request, no response. -/
def State.RegistersReset (s : State) : Prop :=
  s.phase = .idle ∧ s.bound = false ∧ s.rangeSel = 0b01 ∧ s.odrSel = 10 ∧ s.hpfSel = 0 ∧ s.csN = .high ∧
    s.txBuf = [] ∧ s.rxBuf = [] ∧ s.xreq = none ∧ s.rsp = none

/-- The phase belongs to an INIT that is running. -/
def Phase.ofInit : Phase → Prop
  | .busy (.start (.init _ _ _ _ _ _)) => True
  | .busy (.await (.initId _ _ _)) => True
  | .busy (.await (.initFilter _ _ _)) => True
  | .busy (.await (.initRange _ _ _)) => True
  | _ => False

/-- The step that comes next runs an INIT: one that is running, or one that is next on CMD. -/
def State.RunsInit (s : State) : Prop :=
  s.phase.ofInit ∨
    (s.phase = .idle ∧ ∃ w later rset rcode oset ocode hset hcode,
      s.cmdIn = w :: later ∧ decodeWord s.params w = .ok (.init rset rcode oset ocode hset hcode))

/-- The state's response is OK: taken last, or on offer. -/
def State.RespondsOk (s : State) : Prop :=
  s.trace.getLast? = some (.rsp { status := .ok }) ∨ s.rsp = some { status := .ok }

/-- The nine items of 30_encoding.md R66, over the bits of the word. -/
def IllegalWord (p : Params) (w : Word) : Prop :=
  let op := (w.extractLsb' 28 4).toNat
  let data := w.extractLsb' 8 8
  let len := w.extractLsb' 0 4
  let rcode := w.extractLsb' 16 2
  let ocode := w.extractLsb' 8 4
  let hcode := w.extractLsb' 0 3
  -- 1: a reserved opcode
  op = 0 ∨ 0xA ≤ op ∨
  -- 2: a reserved bit, in formats A, I and Z
  ((op = 1 ∨ op = 2 ∨ op = 3) ∧ (w.extractLsb' 23 5 ≠ 0 ∨ w.extractLsb' 4 4 ≠ 0)) ∨
  (op = 4 ∧ (w.extractLsb' 24 4 ≠ 0 ∨ w.extractLsb' 18 5 ≠ 0 ∨ w.extractLsb' 12 3 ≠ 0 ∨ w.extractLsb' 3 4 ≠ 0)) ∨
  ((op = 5 ∨ op = 6 ∨ op = 7 ∨ op = 8 ∨ op = 9) ∧ w.extractLsb' 0 28 ≠ 0) ∨
  -- 3: a field the command does not use
  (op = 2 ∧ (data ≠ 0 ∨ len ≠ 0)) ∨ (op = 1 ∧ len ≠ 0) ∨ (op = 3 ∧ data ≠ 0) ∨
  -- 4: the burst length
  (op = 3 ∧ (len = 0 ∨ p.maxBurst.toNat < len.toNat)) ∨
  -- 5, 6, 7: INIT's codes
  (op = 4 ∧ w.getLsbD 23 = true ∧ rcode = 0) ∨
  (op = 4 ∧ w.getLsbD 15 = true ∧ 10 < ocode.toNat) ∨
  (op = 4 ∧ w.getLsbD 7 = true ∧ hcode = 7) ∨
  -- 8: a code without its set bit
  (op = 4 ∧ ((w.getLsbD 23 = false ∧ rcode ≠ 0) ∨ (w.getLsbD 15 = false ∧ ocode ≠ 0) ∨
    (w.getLsbD 7 = false ∧ hcode ≠ 0))) ∨
  -- 9: HPF in the MINIMAL variant
  (op = 4 ∧ w.getLsbD 7 = true ∧ p.variant = .minimal)

/-- A transfer has been answered. -/
def Event.isXfer : Event → Bool
  | .xfer _ _ _ => true
  | .cmd _ => false
  | .cs _ => false
  | .rsp _ => false
  | .reset => false

/-- Whether a transfer is outstanding after the events `es` of a step from `s`: none of them has closed it. -/
def State.openAfter (es : List Event) (s : State) : Bool :=
  match es.getLast? with
  | none => s.xreq.isSome
  | some e => e == .cs .low

/-- More answers come on XRSP. -/
def State.answeredBy (ys : List Xrsp) (s : State) : State := { s with xrspIn := s.xrspIn ++ ys }

/-! ### The assembler's spellings (30_encoding.md R67) -/

/-- A spelling of a number: decimal, 0x hexadecimal or 0b binary. -/
def Spells (t : List Char) (n : Nat) : Prop :=
  t = Nat.toDigits 10 n ∨ t = '0' :: 'x' :: Nat.toDigits 16 n ∨ t = '0' :: 'b' :: Nat.toDigits 2 n

/-- The register names and addresses of 20_memory.md R34. -/
def registerTable : List (String × Addr) :=
  [("DEVID", 0x02), ("TEMP2", 0x06), ("TEMP1", 0x07), ("XDATA3", 0x08), ("XDATA2", 0x09), ("XDATA1", 0x0A),
   ("YDATA3", 0x0B), ("YDATA2", 0x0C), ("YDATA1", 0x0D)] ++
  [("ZDATA3", 0x0E), ("ZDATA2", 0x0F), ("ZDATA1", 0x10), ("FILTER", 0x28), ("RANGE", 0x2C), ("POWER_CTL", 0x2D)]

/-- A spelling of an address: a register name or a 7-bit number. -/
def SpellsAddr (t : List Char) (a : Addr) : Prop :=
  Spells t a.toNat ∨ ∃ name, (name, a) ∈ registerTable ∧ t = name.toList

/-- A spelling of a range value, with its code (30_encoding.md R59). -/
def SpellsRange (t : List Char) (code : BitVec 2) : Prop :=
  (code = 0b01 ∧ (t = "±2g".toList ∨ t = "2g".toList)) ∨
  (code = 0b10 ∧ (t = "±4g".toList ∨ t = "4g".toList)) ∨
  (code = 0b11 ∧ (t = "±8g".toList ∨ t = "8g".toList))

/-- An option of INIT on a line: nothing where it is omitted, and otherwise a space, its key and its value. -/
def optionText (key : String) : Option (List Char) → List Char
  | none => []
  | some t => ' ' :: key.toList ++ t

/-- An answer whose byte of the address slot, rx(0), is `b` (40_framer.md R73). -/
def Xrsp.withSlot0 (b : Byte) (x : Xrsp) : Xrsp := { x with rx := x.rx.set 0 b }

/-- An answer without the byte of the address slot. -/
def Answer.dropSlot0 : Answer → Answer
  | .okRx rx => .okRx rx.tail
  | .okDone => .okDone
  | .err e => .err e

/-- An event without the byte of the address slot. -/
def Event.dropSlot0 : Event → Event
  | .xfer kind tx a => .xfer kind tx a.dropSlot0
  | e => e

/-- A state without any byte received in an address slot, now or to come. -/
def State.dropSlot0 (s : State) : State :=
  { s with
    rxBuf  := s.rxBuf.tail
    xrspIn := s.xrspIn.map (Xrsp.withSlot0 0)
    trace  := s.trace.map Event.dropSlot0 }

/-- The exact value of a finite binary32 pattern (42_decode.md R84). -/
def f32Value (a : Word) : ℚ :=
  (if a.msb then -1 else 1) * ((f32Sig a * 2 ^ f32Scale a : Nat) : ℚ) / 2 ^ 150

/-- A normal number's pattern: not a zero, a subnormal, an infinity or a NaN. -/
def f32IsNormal (a : Word) : Bool := f32Exp a != 0 && f32Exp a != 255

end Sys2Proof.Machine
end

