-- ==== Sys2Proof/Certificates/Slice0/Obligations.lean ====
section
/-! DEFINITION. The statements for the provers, one per rule or group of rules of spec/. -/

open Sys2Proof Sys2Proof.Machine

/-! ### Encodings (30_encoding.md) -/

/-- 30_encoding.md R49: bits 7:1 of an address byte are the address, bit 0 is the direction (1 = read), and every
byte is a valid address byte. -/
def Obligations.AddressByteLayout : Prop :=
  ∀ (addr : Addr) (b : Byte),
    writeByte addr = addr ++ 0#1 ∧ readByte addr = addr ++ 1#1 ∧
    b = (if b.getLsbD 0 then readByte (b.extractLsb' 1 7) else writeByte (b.extractLsb' 1 7))

/-- 30_encoding.md sections 1 and 3: no bit of an encoding is dropped. -/
def Obligations.DecodeEncodeRoundTrip : Prop :=
  ∀ (p : Params) (i : Instr), i.wellFormed p = true → decode p (encode i) = .ok i

/-- 30_encoding.md R61 to R66: a legal word has one meaning, whose encoding it is. -/
def Obligations.DecodedWordIsEncoded : Prop :=
  ∀ (p : Params) (w : Word) (i : Instr), decodeWord p w = .ok i →
    encode i = .word w ∧ i.wellFormed p = true ∧ i.isCommand = true

/-- 30_encoding.md R48, R53: a byte sequence that decodes is the frame that its instruction sends. -/
def Obligations.DecodedFrameIsEncoded : Prop :=
  ∀ (p : Params) (bytes : List Byte) (i : Instr), decodeFrame bytes = .ok i →
    encode i = .frame bytes ∧ i.wellFormed p = true ∧ i.isCommand = false

/-- 30_encoding.md R66: the decoder refuses exactly the words of the nine items. -/
def Obligations.IllegalWordsExactly : Prop :=
  ∀ (p : Params) (w : Word), (∃ r, decodeWord p w = .error r) ↔ IllegalWord p w

/-- spec/opcode_table.json, the nine command rows: match, mask, fields and constraints. -/
def Obligations.DecodeMatchesTable : Prop :=
  ∀ (p : Params) (w : Word) (a : Addr) (d : Byte) (n : BitVec 4) (rs os hs : Bool) (r : BitVec 2) (o : BitVec 4)
    (h : BitVec 3),
    (decodeWord p w = .ok (.wr a d) ↔
      w &&& 0xFF8000FF = 0x10000000 ∧ w.extractLsb' 16 7 = a ∧ w.extractLsb' 8 8 = d) ∧
    (decodeWord p w = .ok (.rd a) ↔ w &&& 0xFF80FFFF = 0x20000000 ∧ w.extractLsb' 16 7 = a) ∧
    (decodeWord p w = .ok (.brd a n) ↔
      w &&& 0xFF80FFF0 = 0x30000000 ∧ w.extractLsb' 16 7 = a ∧ w.extractLsb' 0 4 = n ∧ n ≠ 0 ∧
        n.toNat ≤ p.maxBurst.toNat) ∧
    (decodeWord p w = .ok (.init rs r os o hs h) ↔
      w &&& 0xFF7C7078 = 0x40000000 ∧
      w.getLsbD 23 = rs ∧ w.extractLsb' 16 2 = r ∧ w.getLsbD 15 = os ∧ w.extractLsb' 8 4 = o ∧
      w.getLsbD 7 = hs ∧ w.extractLsb' 0 3 = h ∧
      (if rs then r ≠ 0 else r = 0) ∧ (if os then o.toNat ≤ 10 else o = 0) ∧
      (if hs then h ≠ 7 ∧ p.variant = .full else h = 0)) ∧
    (decodeWord p w = .ok .start ↔ w = 0x50000000) ∧
    (decodeWord p w = .ok .getid ↔ w = 0x60000000) ∧
    (decodeWord p w = .ok .temp ↔ w = 0x70000000) ∧
    (decodeWord p w = .ok .accr ↔ w = 0x80000000) ∧
    (decodeWord p w = .ok .accn ↔ w = 0x90000000)

/-- 30_encoding.md R62, R67, 95_test_vectors.md V2: eight words written out in the spec. -/
def Obligations.KnownWordsDecode : Prop :=
  decodeWord .reference 0x102D0000 = .ok (.wr 0x2D 0x00) ∧
  decodeWord .reference 0x107FFF00 = .ok (.wr 0x7F 0xFF) ∧
  decodeWord .reference 0x20020000 = .ok (.rd 0x02) ∧
  decodeWord .reference 0x30080009 = .ok (.brd 0x08 9) ∧
  decodeWord .reference 0x3008000F = .ok (.brd 0x08 15) ∧
  decodeWord { Params.reference with maxBurst := 9 } 0x30080009 = .ok (.brd 0x08 9) ∧
  decodeWord { Params.reference with maxBurst := 9 } 0x3008000A = .error .badLength ∧
  decodeWord .reference 0x40828083 = .ok (.init true 0b10 true 0 true 3) ∧
  decodeWord { Params.reference with variant := .minimal } 0x40828083 = .error .hpfInMinimal ∧
  decodeWord .reference 0x40008B00 = .error .odrOverTen ∧
  decodeWord .reference 0x90000000 = .ok .accn ∧
  decodeFrame [0x5A, 0x00] = .ok (.wrframe 0x2D 0x00) ∧
  decodeFrame [0x05, 0x00] = .ok (.rdframe 0x02) ∧
  decodeFrame [0x0D, 0x00, 0x00] = .ok (.brdframe 0x06 2)

/-- 30_encoding.md R67, R68: what the assembler accepts is a well-formed command, which it encodes to a word that
decodes back to it; and which command each form of a line gives, for every spelling of its operands (the separators
and the order of INIT's options are entry 28). -/
def Obligations.AssembledIsWellFormed : Prop :=
  (∀ (line : String) (i : Instr), assemble line = some i →
    i.wellFormed .reference = true ∧ i.isCommand = true ∧ decode .reference (encode i) = .ok i) ∧
  (∀ (a v : List Char) (addr : Addr) (data : Byte), SpellsAddr a addr → Spells v data.toNat →
    assemble (String.ofList ("WR ".toList ++ a ++ ", ".toList ++ v)) = some (.wr addr data)) ∧
  (∀ (a : List Char) (addr : Addr), SpellsAddr a addr →
    assemble (String.ofList ("RD ".toList ++ a)) = some (.rd addr)) ∧
  (∀ (a v : List Char) (addr : Addr) (n : BitVec 4), SpellsAddr a addr → Spells v n.toNat → n ≠ 0 →
    assemble (String.ofList ("BRD ".toList ++ a ++ ", ".toList ++ v)) = some (.brd addr n)) ∧
  (∀ (r : Option (List Char × BitVec 2)) (o : Option (List Char × BitVec 4)) (h : Option (List Char × BitVec 3)),
    (∀ p, r = some p → SpellsRange p.1 p.2) →
    (∀ p, o = some p → Spells p.1 p.2.toNat ∧ p.2.toNat ≤ 10) →
    (∀ p, h = some p → Spells p.1 p.2.toNat ∧ p.2.toNat ≤ 6) →
    assemble (String.ofList ("INIT".toList ++ optionText "range=" (r.map (·.1)) ++ optionText "odr=" (o.map (·.1)) ++
        optionText "hpf=" (h.map (·.1)))) =
      some (.init r.isSome ((r.map (·.2)).getD 0) o.isSome ((o.map (·.2)).getD 0) h.isSome ((h.map (·.2)).getD 0))) ∧
  assemble "START" = some .start ∧ assemble "GETID" = some .getid ∧ assemble "TEMP" = some .temp ∧
  assemble "ACCR" = some .accr ∧ assemble "ACCN" = some .accn

/-- 30_encoding.md R54, R55: the fields of the FILTER and RANGE payload bytes. -/
def Obligations.PayloadByteFields : Prop :=
  ∀ (o : BitVec 4) (h : BitVec 3) (r : BitVec 2),
    filterByte .full o h = 0#1 ++ h ++ o ∧ filterByte .minimal o h = 0#4 ++ o ∧ rangeByte r = 0#6 ++ r

/-! ### The decoders and the scaler (42_decode.md) -/

/-- 42_decode.md R81, R82, 30_encoding.md R57: SEXT20 is the sign extension of the 20-bit field, every value in
its range comes from exactly one field, the junk nibble does not matter, the shift loses nothing and is by 12, and
the corner values are those of R82. -/
def Obligations.Sext20IsSignExtension : Prop :=
  (∀ b0 b1 b2 : Byte,
    let u := b0.toNat * 4096 + b1.toNat * 16 + b2.toNat / 16
    let w : Word := b0 ++ b1 ++ (b2.extractLsb' 4 4 ++ 0#12)
    sext20 b0 b1 b2 = w.sshiftRight 12 ∧
    sext20 b0 b1 b2 = (b0 ++ b1 ++ b2.extractLsb' 4 4).signExtend 32 ∧
    (sext20 b0 b1 b2).toInt = (if u < 524288 then (u : Int) else (u : Int) - 1048576) ∧
    -524288 ≤ (sext20 b0 b1 b2).toInt ∧ (sext20 b0 b1 b2).toInt ≤ 524287 ∧
    (∀ junk : BitVec 4, sext20 b0 b1 (b2.extractLsb' 4 4 ++ junk) = sext20 b0 b1 b2) ∧
    sext20 b0 b1 b2 <<< 12 = w ∧
    w.sshiftRight 8 = sext20 b0 b1 b2 <<< 4 ∧
    (w >>> 12).toNat = u) ∧
  (∀ n : Int, -524288 ≤ n → n ≤ 524287 →
    ∃! f : Byte × Byte × BitVec 4, (sext20 f.1 f.2.1 (f.2.2 ++ 0#4)).toInt = n) ∧
  (sext20 0x7F 0xFF 0xF0).toInt = 524287 ∧ (sext20 0x80 0x00 0x00).toInt = -524288 ∧
  (sext20 0xFF 0xFF 0xF0).toInt = -1 ∧ (sext20 0x00 0x00 0x10).toInt = 1 ∧ (sext20 0x00 0x00 0x0F).toInt = 0

/-- 42_decode.md R83, 30_encoding.md R58: TEMP12 takes the low nibble of TEMP2 above TEMP1, lies in 0..4095, and
does not depend on the high nibble of TEMP2; the worked example of the source (90_conflicts.md C3). -/
def Obligations.Temp12IsField : Prop :=
  (∀ t2 t1 : Byte,
    temp12 t2 t1 = 0#4 ++ (t2.extractLsb' 0 4 ++ t1) ∧
    (temp12 t2 t1).toNat = t2.toNat % 16 * 256 + t1.toNat ∧
    (temp12 t2 t1).toNat ≤ 4095 ∧
    ∀ junk : BitVec 4, temp12 (junk ++ t2.extractLsb' 0 4) t1 = temp12 t2 t1) ∧
  temp12 0x01 0x23 = 291

/-- 42_decode.md R85: the scaler's constants, as patterns, as rounded literals and as exact values. -/
def Obligations.ScaleConstants : Prop :=
  d32 = 0x48FFFFE0 ∧ d32 = roundF32 false 524287 1 ∧ f32Value d32 = 524287 ∧
  fs32 0b01 = 0x4003126F ∧ fs32 0b01 = roundF32 false 2048 1000 ∧ f32Value (fs32 0b01) = 8589935 / 2 ^ 22 ∧
  fs32 0b10 = 0x4083126F ∧ fs32 0b10 = roundF32 false 4096 1000 ∧ f32Value (fs32 0b10) = 8589935 / 2 ^ 21 ∧
  fs32 0b11 = 0x4103126F ∧ fs32 0b11 = roundF32 false 8192 1000 ∧ f32Value (fs32 0b11) = 8589935 / 2 ^ 20 ∧
  f32Value (fs32 0b10) = 2 * f32Value (fs32 0b01) ∧ f32Value (fs32 0b11) = 4 * f32Value (fs32 0b01)

/-- 42_decode.md R84: the conversion is exact for |i| ≤ 2^24. -/
def Obligations.ConversionIsExact : Prop :=
  ∀ i : Word, i.toInt.natAbs ≤ 2 ^ 24 → f32Value (f32OfI32 i) = i.toInt

/-- 42_decode.md R84 (92_eei_decisions.md D16, entry 12): a positive value that rounds to a finite pattern is rounded
to a nearest finite pattern, and of two nearest ones to the even one. -/
def Obligations.RoundingIsToNearestEven : Prop :=
  ∀ num den : Nat, 0 < den → roundBits num den < f32InfBits →
    f32Value (roundF32 false num den) = f32Value (BitVec.ofNat 32 (roundBits num den)) ∧
    ∀ b : Nat, b < f32InfBits →
      |(num : ℚ) / den - f32Value (BitVec.ofNat 32 (roundBits num den))| ≤
        |(num : ℚ) / den - f32Value (BitVec.ofNat 32 b)| ∧
      (b ≠ roundBits num den →
        |(num : ℚ) / den - f32Value (BitVec.ofNat 32 (roundBits num den))| =
          |(num : ℚ) / den - f32Value (BitVec.ofNat 32 b)| →
        roundBits num den % 2 = 0)

/-- 42_decode.md R84, R86: on finite operands with a finite result, the scaler's division and multiplication are the
exact rational results rounded once. -/
def Obligations.DivAndMulRoundOnce : Prop :=
  ∀ a b : Word, f32Exp a ≠ 255 → f32Exp b ≠ 255 →
    (f32IsZero b = false →
      ∃ num den : Nat, 0 < den ∧ |f32Value a / f32Value b| = (num : ℚ) / den ∧
        divRNE a b = roundF32 (a.msb != b.msb) num den) ∧
    (∃ num den : Nat, 0 < den ∧ |f32Value a * f32Value b| = (num : ℚ) / den ∧
        mulRNE a b = roundF32 (a.msb != b.msb) num den)

/-- 42_decode.md R87 laws 1, 2, 3 (90_conflicts.md C2): the ends of the scale and zero, for every legal code. -/
def Obligations.ScaleEndpoints : Prop :=
  (∀ c : BitVec 2, c ≠ 0 → scale 0 c = 0x00000000 ∧ scale 524287 c = fs32 c) ∧
  divRNE (f32OfI32 (-524288)) d32 = 0xBF800010 ∧
  scale (-524288) 0b01 = 0xC003127F ∧ scale (-524288) 0b10 = 0xC083127F ∧ scale (-524288) 0b11 = 0xC103127F

/-- 42_decode.md R87 law 1: on every nonzero sample the result is a normal number of magnitude at least 3.9e-6. -/
def Obligations.ScaleIsNormal : Prop :=
  ∀ (raw : Word) (c : BitVec 2), -524288 ≤ raw.toInt → raw.toInt ≤ 524287 → raw ≠ 0 → c ≠ 0 →
    f32IsNormal (scale raw c) = true ∧ (39 : ℚ) / 10000000 ≤ |f32Value (scale raw c)|

/-- 42_decode.md R87 law 4: odd symmetry, on the values and, off zero, on the patterns. -/
def Obligations.ScaleOddSymmetry : Prop :=
  ∀ (raw : Word) (c : BitVec 2), -524287 ≤ raw.toInt → raw.toInt ≤ 524287 → c ≠ 0 →
    f32Value (scale (-raw) c) = -f32Value (scale raw c) ∧
    (raw ≠ 0 → scale (-raw) c = scale raw c ^^^ 0x80000000)

/-- 42_decode.md R87 law 5: monotone. -/
def Obligations.ScaleMonotone : Prop :=
  ∀ (raw1 raw2 : Word) (c : BitVec 2), -524288 ≤ raw1.toInt → raw1.toInt ≤ raw2.toInt → raw2.toInt ≤ 524287 → c ≠ 0 →
    f32Value (scale raw1 c) ≤ f32Value (scale raw2 c)

/-- 42_decode.md R87 law 6: the steps between ranges are exact. -/
def Obligations.ScaleRangeSteps : Prop :=
  ∀ raw : Word, -524288 ≤ raw.toInt → raw.toInt ≤ 524287 →
    f32Value (scale raw 0b10) = 2 * f32Value (scale raw 0b01) ∧
    f32Value (scale raw 0b11) = 4 * f32Value (scale raw 0b01)

/-- 42_decode.md R87 law 7: the relative error against the exact rational. -/
def Obligations.ScaleRelativeError : Prop :=
  ∀ (raw : Word) (c : BitVec 2), -524288 ≤ raw.toInt → raw.toInt ≤ 524287 → c ≠ 0 →
    |f32Value (scale raw c) - raw.toInt * f32Value (fs32 c) / 524287| ≤
      (1 / 2 ^ 23 + 1 / 2 ^ 48) * |raw.toInt * f32Value (fs32 c) / 524287|

/-! ### Reset (10_state.md R30, 70_reset_and_hazards.md R105, R106) -/

/-- 70_reset_and_hazards.md R105, 10_state.md R30: a RESET that is due sets every register, from any state; the
machine starts with the same values; and the block then waits for a command. The queue of answers stays, and if a
transfer is cut short that is still answered later, that answer is one more to discard (entry 5). -/
def Obligations.ResetSetsEveryRegister : Prop :=
  State.reset.RegistersReset ∧
  (∀ (s : State) (r : ResetIn) (later : List ResetIn), s.resetIn = r :: later → r.after = 0 →
    ∃ t, step s = .next t ∧ t.RegistersReset ∧ t.trace = s.trace ++ [.reset] ∧ t.resetIn = later ∧
      t.cmdIn = s.cmdIn ∧ t.params = s.params ∧ t.rspReady = s.rspReady ∧ t.draws = s.draws ∧ t.xrspIn = s.xrspIn ∧
      t.stale = s.stale + (if s.xreq.isSome ∧ r.late = true then 1 else 0) ∧
      (later = [] → t.cmdIn = [] → step t = .next t))

/-- 70_reset_and_hazards.md R106: a RESET that ends an instruction or a step, wherever it lands (at acceptance, in a
frame, between frames, in a command that had waited), leaves every register at its reset value, CS_N high among
them, and delivers no response. The answers to the transfers that were made are gone, and the answer to a transfer
that was cut short is discarded, whether it stands in the queue already or comes later: whatever answers `ys` come
after it, those that count are the ones after it (entries 4 and 5). -/
def Obligations.ResetAbortsCommand : Prop :=
  (∀ (i : Instr) (s t : State) (new : List Event), exec i s = .next t → t.trace = s.trace ++ new ++ [.reset] →
    t.RegistersReset ∧ ∀ r, Event.rsp r ∉ new) ∧
  (∀ (s t : State) (new : List Event), step s = .next t → t.trace = s.trace ++ new ++ [.reset] →
    t.RegistersReset ∧ (∀ r, Event.rsp r ∉ new) ∧
    ∃ r later, s.resetIn = r :: later ∧ t.resetIn = later ∧ r.after = new.length ∧
      (s.channelsOk = true → ∀ ys, (t.answeredBy ys).live =
        (s.answeredBy ys).live.drop
          (new.countP Event.isXfer + if s.openAfter new = true ∧ r.late = true then 1 else 0)))

/-! ### A step (10_state.md R16, R26; 20_memory.md R41) -/

/-- A word on CMD that decodes runs as its instruction, after the CMD event and with PHASE = BUSY (10_state.md R26). -/
def Obligations.StepRunsDecodedCommand : Prop :=
  ∀ (s : State) (w : Word) (later : List Word) (i : Instr),
    s.phase = .idle → s.resetIn = [] → s.cmdIn = w :: later → decodeWord s.params w = .ok i →
    step s = exec i { s with
      phase := .busy (.start i), cmdIn := later, txBuf := [], rxBuf := [], trace := s.trace ++ [.cmd w] }

/-- A frame in TXBUF that is about to be sent runs as its instruction (40_framer.md R69, entry 13). -/
def Obligations.StepRunsDecodedFrame : Prop :=
  ∀ (s : State) (i : Instr),
    s.phase = .busy .send → s.resetIn = [] → decodeFrame s.txBuf = .ok i → step s = exec i s

/-- 30_encoding.md R66, 60_exceptions.md R97: an illegal word gets RSP(ILLEGAL_COMMAND) and has no other effect: no CS
or XFER event, no register changed (PHASE is IDLE again once the response is taken); a legal word runs. -/
def Obligations.IllegalWordAnswered : Prop :=
  ∀ (s : State) (w : Word) (later : List Word), s.phase = .idle → s.Calm → s.cmdIn = w :: later →
    (IllegalWord s.params w →
      step s = .next { s with
        cmdIn := later, txBuf := [], rxBuf := [], rsp := none
        trace := s.trace ++ [.cmd w, .rsp { status := .illegalCommand }] }) ∧
    (¬ IllegalWord s.params w →
      ∃ i, decodeWord s.params w = .ok i ∧ step s = exec i { s with
        phase := .busy (.start i), cmdIn := later, txBuf := [], rxBuf := [], trace := s.trace ++ [.cmd w] })

/-- 70_reset_and_hazards.md R118, 20_memory.md R41 (the model's choice of a stuttering step: entry 19): the block
waits as it is while no command is offered, no answer comes, or the host does not take the response. -/
def Obligations.StepWaits : Prop :=
  ∀ s : State, s.resetIn = [] →
    ((s.phase = .idle ∧ s.cmdIn = []) ∨
     (∃ ret q, s.phase = .busy (.await ret) ∧ s.xreq = some q ∧ s.live = []) ∨
     (s.phase = .busy .respond ∧ s.rspReady = false)) →
    step s = .next s

/-- 10_state.md R16, R27 and 40_framer.md R69: when the answer comes, the bracket closes and the rule goes on from
where it waited; and an instruction that waited, given more answers, ends as it ends when it has them from the
start. -/
def Obligations.StepResumesRule : Prop :=
  (∀ (i : Instr) (s t : State) (ret : Ret) (ys : List Xrsp), exec i s = .next t → t.phase = .busy (.await ret) →
    step (t.answeredBy ys) = exec i (s.answeredBy ys)) ∧
  ∀ (s : State) (ret : Ret) (q : Request) (x : Xrsp) (later : List Xrsp), s.resetIn = [] →
    s.phase = .busy (.await ret) → s.xreq = some q → s.live = x :: later →
    step s = resumeAt ret (x.answer q) { s with
      csN := .high, xreq := none, xrspIn := later, stale := 0, rxBuf := (x.answer q).bytes
      trace := s.trace ++ [.xfer q.kind q.tx (x.answer q), .cs .high] }

/-- 10_state.md R26: the response handshake records RSP(r) and makes PHASE IDLE; and what a host that is not ready
is offered is what a ready host takes: with the host becoming ready after it, an instruction or a step ends as with
a ready host. -/
def Obligations.ResponseHandshake : Prop :=
  (∀ (s : State) (r : Response), s.Calm → s.phase = .busy .respond → s.rsp = some r →
    step s = .next { s with
      phase := .idle, rsp := none, txBuf := [], rxBuf := [], trace := s.trace ++ [.rsp r] }) ∧
  (∀ (i : Instr) (s t : State), exec i { s with rspReady := false } = .next t →
    (t.phase = .busy .respond → t.rsp.isSome = true ∧
      step { t with rspReady := true } = exec i { s with rspReady := true }) ∧
    (t.phase ≠ .busy .respond → exec i { s with rspReady := true } = .next { t with rspReady := true })) ∧
  (∀ s t : State, step { s with rspReady := false } = .next t →
    (t.phase = .busy .respond → step { t with rspReady := true } = step { s with rspReady := true }) ∧
    (t.phase ≠ .busy .respond → step { s with rspReady := true } = .next { t with rspReady := true }))

/-! ### The framer commands (40_framer.md) -/

/-- 40_framer.md R70: WR. -/
def Obligations.WrWritesOneRegister : Prop :=
  ∀ (p : Params) (s : State) (addr : Addr) (data : Byte) (x : Xrsp) (later : List Xrsp),
    s.Calm → s.live = x :: later →
    decodeWord p (BitVec.ofNat 32 (0x10000000 + addr.toNat * 0x10000 + data.toNat * 0x100)) = .ok (.wr addr data) ∧
    exec (.wr addr data) s = .next (s.ended
      (bracket .writeOnly [addr.setWidth 8 <<< 1 ||| 0, data] x.writeAnswer)
      (if x.ok then { status := .ok } else { status := .transportError, terr := some x.err }) later)

/-- 40_framer.md R71: RD. -/
def Obligations.RdReadsOneRegister : Prop :=
  ∀ (p : Params) (s : State) (addr : Addr) (x : Xrsp) (later : List Xrsp),
    s.Calm → s.live = x :: later →
    decodeWord p (BitVec.ofNat 32 (0x20000000 + addr.toNat * 0x10000)) = .ok (.rd addr) ∧
    exec (.rd addr) s = .next (s.ended
      (bracket .duplex [addr.setWidth 8 <<< 1 ||| 1, 0x00] (x.readAnswer 2))
      (if x.ok then { status := .ok, d0 := some (x.rx[1].setWidth 32) }
       else { status := .transportError, terr := some x.err }) later)

/-- 40_framer.md R72: BRD; a word with N = 0 or N > P_MAX_BURST is refused at decode. -/
def Obligations.BrdReadsBurst : Prop :=
  (∀ (p : Params) (addr : Addr) (n : BitVec 4), n = 0 ∨ p.maxBurst.toNat < n.toNat →
    IllegalWord p (BitVec.ofNat 32 (0x30000000 + addr.toNat * 0x10000 + n.toNat)) ∧
    decodeWord p (BitVec.ofNat 32 (0x30000000 + addr.toNat * 0x10000 + n.toNat)) = .error .badLength) ∧
  ∀ (p : Params) (s : State) (addr : Addr) (n : BitVec 4) (x : Xrsp) (later : List Xrsp),
    n ≠ 0 → n.toNat ≤ p.maxBurst.toNat → s.Calm → s.live = x :: later →
    decodeWord p (BitVec.ofNat 32 (0x30000000 + addr.toNat * 0x10000 + n.toNat)) = .ok (.brd addr n) ∧
    exec (.brd addr n) s = .next (s.ended
      (bracket .duplex ((addr.setWidth 8 <<< 1 ||| 1) :: List.replicate n.toNat 0x00) (x.readAnswer (1 + n.toNat)))
      (if x.ok then { status := .ok, len := some n, bytes := (x.rx.toList.drop 1).take n.toNat }
       else { status := .transportError, terr := some x.err }) later)

/-! ### The driver commands (41_driver_ops.md) -/

/-- 41_driver_ops.md R76, 10_state.md R20: the resolved settings, and HPF_SEL hardwired to 0 in the MINIMAL variant. -/
def Obligations.SettingsResolve : Prop :=
  (∀ (set : Bool) (r : BitVec 2) (o : BitVec 4) (h : BitVec 3),
    resolveRange set r = (if set then r else 0b01) ∧ resolveOdr set o = (if set then o else 10) ∧
    resolveHpf .full set h = (if set then h else 0) ∧ resolveHpf .minimal set h = 0) ∧
  (∀ (p : Params) (rset oset hset : Bool) (rcode : BitVec 2) (ocode : BitVec 4) (hcode : BitVec 3),
    (Instr.init rset rcode oset ocode hset hcode).wellFormed p = true →
    settingsLegal p.variant (resolveRange rset rcode) (resolveOdr oset ocode) (resolveHpf p.variant hset hcode) = true) ∧
  (∀ (s : State) (r : BitVec 2) (o : BitVec 4) (h : BitVec 3), s.params.variant = .minimal →
    s.readHpfSel = 0 ∧ (s.latch r o h).hpfSel = 0)

/-- 41_driver_ops.md R75: an INIT whose three frames succeed and whose identity byte is accepted latches the
settings and binds. -/
def Obligations.InitSucceeds : Prop :=
  ∀ (s : State) (rset oset hset : Bool) (rcode : BitVec 2) (ocode : BitVec 4) (hcode : BitVec 3)
    (x1 x2 x3 : Xrsp) (later : List Xrsp),
    s.Calm → s.bound = false → s.live = x1 :: x2 :: x3 :: later →
    x1.ok = true → x2.ok = true → x3.ok = true → (x1.rx[1] = 0xED ∨ s.params.policy = .baseline) →
    (Instr.init rset rcode oset ocode hset hcode).wellFormed s.params = true →
    let r : BitVec 2 := if rset then rcode else 0b01
    let o : BitVec 4 := if oset then ocode else 10
    let h : BitVec 3 := if hset then hcode else 0
    exec (.init rset rcode oset ocode hset hcode) s = .next { s.ended
      (bracket .duplex [0x05, 0x00] (.okRx [x1.rx[0], x1.rx[1]]) ++
        bracket .writeOnly [0x50, 0#1 ++ h ++ o] .okDone ++
        bracket .writeOnly [0x58, 0#6 ++ r] .okDone)
      { status := .ok } later with bound := true, rangeSel := r, odrSel := o, hpfSel := h }

/-- 41_driver_ops.md R75, 60_exceptions.md R94: an INIT ends with TRANSPORT_ERROR at its first failing frame, sends no
later frame and writes no register of the block. -/
def Obligations.InitStopsAtFirstError : Prop :=
  ∀ (s : State) (rset oset hset : Bool) (rcode : BitVec 2) (ocode : BitVec 4) (hcode : BitVec 3)
    (x1 x2 x3 : Xrsp) (later : List Xrsp),
    s.Calm → s.bound = false →
    (Instr.init rset rcode oset ocode hset hcode).wellFormed s.params = true →
    let r : BitVec 2 := if rset then rcode else 0b01
    let o : BitVec 4 := if oset then ocode else 10
    let h : BitVec 3 := if hset then hcode else 0
    let i : Instr := .init rset rcode oset ocode hset hcode
    (s.live = x1 :: later → x1.ok = false →
      exec i s = .next (s.ended (bracket .duplex [0x05, 0x00] (.err x1.err))
        { status := .transportError, terr := some x1.err } later)) ∧
    (s.live = x1 :: x2 :: later → x1.ok = true → (x1.rx[1] = 0xED ∨ s.params.policy = .baseline) → x2.ok = false →
      exec i s = .next (s.ended
        (bracket .duplex [0x05, 0x00] (.okRx [x1.rx[0], x1.rx[1]]) ++
          bracket .writeOnly [0x50, 0#1 ++ h ++ o] (.err x2.err))
        { status := .transportError, terr := some x2.err } later)) ∧
    (s.live = x1 :: x2 :: x3 :: later → x1.ok = true → (x1.rx[1] = 0xED ∨ s.params.policy = .baseline) →
      x2.ok = true → x3.ok = false →
      exec i s = .next (s.ended
        (bracket .duplex [0x05, 0x00] (.okRx [x1.rx[0], x1.rx[1]]) ++
          bracket .writeOnly [0x50, 0#1 ++ h ++ o] .okDone ++
          bracket .writeOnly [0x58, 0#6 ++ r] (.err x3.err))
        { status := .transportError, terr := some x3.err } later))

/-- 41_driver_ops.md R77, 60_exceptions.md R95: under HARDENED a wrong identity byte ends INIT with
UNEXPECTED_DEVICE_ID and the byte, no FILTER or RANGE frame is sent and no register changes; under BASELINE INIT
continues exactly as if the byte were 0xED. -/
def Obligations.IdentityCheckPolicy : Prop :=
  ∀ (s : State) (rset oset hset : Bool) (rcode : BitVec 2) (ocode : BitVec 4) (hcode : BitVec 3)
    (x : Xrsp) (later : List Xrsp),
    s.Calm → s.bound = false → s.live = x :: later → x.ok = true → x.rx[1] ≠ 0xED →
    let i : Instr := .init rset rcode oset ocode hset hcode
    (s.params.policy = .hardened →
      exec i s = .next (s.ended (bracket .duplex [0x05, 0x00] (.okRx [x.rx[0], x.rx[1]]))
        { status := .unexpectedDeviceId, d0 := some (x.rx[1].setWidth 32) } later)) ∧
    (s.params.policy = .baseline →
      ∀ t u, exec i s = .next t → exec i { s with xrspIn := { x with rx := x.rx.set 1 0xED } :: later, stale := 0 } = .next u →
        t.settings = u.settings ∧ t.phase = u.phase ∧ t.csN = u.csN ∧ t.xreq = u.xreq ∧ t.rsp = u.rsp ∧
        t.xrspIn = u.xrspIn ∧ t.stale = u.stale ∧ t.trace.drop (s.trace.length + 2) = u.trace.drop (s.trace.length + 2))

/-- 60_exceptions.md R96: the bound check comes before any frame. -/
def Obligations.BoundCheckBeforeFrames : Prop :=
  ∀ s : State, s.Calm →
    (s.bound = false → ∀ i ∈ [Instr.start, .getid, .temp, .accr, .accn],
      exec i s = .next (s.endedAtOnce { status := .notBound })) ∧
    (s.bound = true → ∀ rset rcode oset ocode hset hcode,
      exec (.init rset rcode oset ocode hset hcode) s = .next (s.endedAtOnce { status := .alreadyBound }))

/-- 41_driver_ops.md R78, 30_encoding.md R56: START. -/
def Obligations.StartWritesPowerCtl : Prop :=
  ∀ (p : Params) (s : State) (x : Xrsp) (later : List Xrsp), s.Calm →
    decodeWord p 0x50000000 = .ok .start ∧
    (s.bound = false → exec .start s = .next (s.endedAtOnce { status := .notBound })) ∧
    (s.bound = true → s.live = x :: later →
      exec .start s = .next (s.ended (bracket .writeOnly [0x5A, 0x00] x.writeAnswer)
        (if x.ok = false ∧ s.params.policy = .hardened then { status := .transportError, terr := some x.err }
         else { status := .ok }) later))

/-- 41_driver_ops.md R79: GETID. After a swallowed error the byte is the free value `Config.draw` (entry 9). -/
def Obligations.GetidReadsIdentity : Prop :=
  ∀ (p : Params) (s : State) (x : Xrsp) (later : List Xrsp), s.Calm →
    decodeWord p 0x60000000 = .ok .getid ∧
    (s.bound = false → exec .getid s = .next (s.endedAtOnce { status := .notBound })) ∧
    (s.bound = true → s.live = x :: later →
      let es := bracket .duplex [0x05, 0x00] (x.readAnswer 2)
      (x.ok = true →
        exec .getid s = .next (s.ended es { status := .ok, d0 := some (x.rx[1].setWidth 32) } later)) ∧
      (x.ok = false → s.params.policy = .hardened →
        exec .getid s = .next (s.ended es { status := .transportError, terr := some x.err } later)) ∧
      (x.ok = false → s.params.policy = .baseline →
        exec .getid s = .next { s.ended es
          { status := .ok, d0 := some ((Config.draw s.draws).setWidth 32) } later with draws := s.draws + 1 }))

/-! ### The sampling commands (42_decode.md) -/

/-- 42_decode.md R88: TEMP. -/
def Obligations.TempReadsField : Prop :=
  ∀ (p : Params) (s : State) (x : Xrsp) (later : List Xrsp), s.Calm →
    decodeWord p 0x70000000 = .ok .temp ∧
    (s.bound = false → exec .temp s = .next (s.endedAtOnce { status := .notBound })) ∧
    (s.bound = true → s.live = x :: later →
      exec .temp s = .next (s.ended (bracket .duplex [0x0D, 0x00, 0x00] (x.readAnswer 3))
        (if x.ok then { status := .ok, d0 := some (0#20 ++ (x.rx[1].extractLsb' 0 4 ++ x.rx[2])) }
         else { status := .transportError, terr := some x.err }) later))

/-- 42_decode.md R89: ACCR. -/
def Obligations.AccrReadsThreeAxes : Prop :=
  ∀ (p : Params) (s : State) (x : Xrsp) (later : List Xrsp), s.Calm →
    decodeWord p 0x80000000 = .ok .accr ∧
    (s.bound = false → exec .accr s = .next (s.endedAtOnce { status := .notBound })) ∧
    (s.bound = true → s.live = x :: later →
      exec .accr s = .next (s.ended
        (bracket .duplex [0x11, 0x00, 0x00, 0x00, 0x00, 0x00, 0x00, 0x00, 0x00, 0x00] (x.readAnswer 10))
        (if x.ok then
          { status := .ok
            d0 := some (sext20 x.rx[1] x.rx[2] x.rx[3])
            d1 := some (sext20 x.rx[4] x.rx[5] x.rx[6])
            d2 := some (sext20 x.rx[7] x.rx[8] x.rx[9]) }
         else { status := .transportError, terr := some x.err }) later))

/-- 42_decode.md R90: ACCN. -/
def Obligations.AccnScalesThreeAxes : Prop :=
  ∀ (p : Params) (s : State) (x : Xrsp) (later : List Xrsp), s.Calm →
    decodeWord p 0x90000000 = .ok .accn ∧
    (s.bound = false → exec .accn s = .next (s.endedAtOnce { status := .notBound })) ∧
    (s.bound = true → s.live = x :: later →
      exec .accn s = .next (s.ended
        (bracket .duplex [0x11, 0x00, 0x00, 0x00, 0x00, 0x00, 0x00, 0x00, 0x00, 0x00] (x.readAnswer 10))
        (if x.ok then
          { status := .ok
            d0 := some (mulRNE (divRNE (f32OfI32 (sext20 x.rx[1] x.rx[2] x.rx[3])) d32) (fs32 s.rangeSel))
            d1 := some (mulRNE (divRNE (f32OfI32 (sext20 x.rx[4] x.rx[5] x.rx[6])) d32) (fs32 s.rangeSel))
            d2 := some (mulRNE (divRNE (f32OfI32 (sext20 x.rx[7] x.rx[8] x.rx[9])) d32) (fs32 s.rangeSel)) }
         else { status := .transportError, terr := some x.err }) later))

/-! ### The wire frames (30_encoding.md R50 to R52; the model runs them by themselves: entry 13) -/

/-- 30_encoding.md R50: the write frame, with its example. -/
def Obligations.WriteFrameOnWire : Prop :=
  (∀ (s : State) (addr : Addr) (value : Byte) (x : Xrsp) (later : List Xrsp),
    s.resetIn = [] → s.phase = .idle ∨ s.phase = .busy .send → s.live = x :: later →
    let tx : List Byte := [addr.setWidth 8 <<< 1 ||| 0, value]
    exec (.wrframe addr value) s = .next { s with
      phase := .idle, csN := .high, txBuf := tx, rxBuf := [], xreq := none, xrspIn := later, stale := 0
      trace := s.trace ++ bracket .writeOnly tx x.writeAnswer }) ∧
  writeFrame 0x2D 0 = [0x5A, 0x00]

/-- 30_encoding.md R51: the single-read frame, with its example. -/
def Obligations.ReadFrameOnWire : Prop :=
  (∀ (s : State) (addr : Addr) (x : Xrsp) (later : List Xrsp),
    s.resetIn = [] → s.phase = .idle ∨ s.phase = .busy .send → s.live = x :: later →
    let tx : List Byte := [addr.setWidth 8 <<< 1 ||| 1, 0x00]
    exec (.rdframe addr) s = .next { s with
      phase := .idle, csN := .high, txBuf := tx, rxBuf := (x.readAnswer 2).bytes, xreq := none, xrspIn := later, stale := 0
      trace := s.trace ++ bracket .duplex tx (x.readAnswer 2) }) ∧
  (readFrame 0x02).head? = some 0x05

/-- 30_encoding.md R52: the burst-read frame; N = 1 is the single-read frame; the frames of TEMP, ACCR and ACCN. -/
def Obligations.BurstFrameOnWire : Prop :=
  (∀ (s : State) (addr : Addr) (n : BitVec 4) (x : Xrsp) (later : List Xrsp),
    s.resetIn = [] → s.phase = .idle ∨ s.phase = .busy .send → s.live = x :: later →
    let tx : List Byte := (addr.setWidth 8 <<< 1 ||| 1) :: List.replicate n.toNat 0x00
    exec (.brdframe addr n) s = .next { s with
      phase := .idle, csN := .high, txBuf := tx, rxBuf := (x.readAnswer (1 + n.toNat)).bytes, xreq := none
      xrspIn := later, stale := 0, trace := s.trace ++ bracket .duplex tx (x.readAnswer (1 + n.toNat)) }) ∧
  (∀ addr, burstFrame addr 1 = readFrame addr) ∧
  burstFrame regTEMP2 2 = [0x0D, 0x00, 0x00] ∧
  burstFrame regXDATA3 9 = [0x11, 0x00, 0x00, 0x00, 0x00, 0x00, 0x00, 0x00, 0x00, 0x00]

/-! ### Frames of instructions: what stays as it was -/

/-- 70_reset_and_hazards.md R118 (U14): with no answer the block stays BUSY with CS_N = 0 and the request on XREQ,
and everything else is as it was; INIT may wait so at each of its three frames, and holds the settings that it
resolved (41_driver_ops.md R75, R76; entry 27). -/
def Obligations.UnansweredTransferWaits : Prop :=
  (∀ s : State, s.resetIn = [] → s.live = [] →
    (∀ addr data, exec (.wr addr data) s = .next (s.waiting [] .writeOnly (writeFrame addr data) .wr)) ∧
    (∀ addr, exec (.rd addr) s = .next (s.waiting [] .duplex (readFrame addr) .rd)) ∧
    (∀ addr len, exec (.brd addr len) s = .next (s.waiting [] .duplex (burstFrame addr len.toNat) (.brd len))) ∧
    (s.bound = true →
      exec .start s = .next (s.waiting [] .writeOnly [0x5A, 0x00] .start) ∧
      exec .getid s = .next (s.waiting [] .duplex [0x05, 0x00] .getid) ∧
      exec .temp s = .next (s.waiting [] .duplex [0x0D, 0x00, 0x00] .temp) ∧
      exec .accr s = .next (s.waiting [] .duplex (burstFrame 0x08 9) .accr) ∧
      exec .accn s = .next (s.waiting [] .duplex (burstFrame 0x08 9) .accn)) ∧
    (∀ addr data, exec (.wrframe addr data) s = .next (s.waiting [] .writeOnly (writeFrame addr data) .alone)) ∧
    (∀ addr, exec (.rdframe addr) s = .next (s.waiting [] .duplex (readFrame addr) .alone)) ∧
    (∀ addr n, exec (.brdframe addr n) s = .next (s.waiting [] .duplex (burstFrame addr n.toNat) .alone))) ∧
  (∀ (s : State) (rset oset hset : Bool) (rcode : BitVec 2) (ocode : BitVec 4) (hcode : BitVec 3),
    s.resetIn = [] → s.bound = false →
    let r := resolveRange rset rcode
    let o := resolveOdr oset ocode
    let h := resolveHpf s.params.variant hset hcode
    let i : Instr := .init rset rcode oset ocode hset hcode
    let answered : State := { s with xrspIn := [], stale := 0 }
    (s.live = [] → exec i s = .next (s.waiting [] .duplex [0x05, 0x00] (.initId r o h))) ∧
    ∀ x1 : Xrsp, x1.ok = true → (x1.rx[1] = 0xED ∨ s.params.policy = .baseline) →
      (s.live = [x1] → exec i s = .next (answered.waiting
        (bracket .duplex [0x05, 0x00] (.okRx [x1.rx[0], x1.rx[1]])) .writeOnly [0x50, 0#1 ++ h ++ o]
        (.initFilter r o h))) ∧
      ∀ x2 : Xrsp, x2.ok = true → s.live = [x1, x2] → exec i s = .next (answered.waiting
        (bracket .duplex [0x05, 0x00] (.okRx [x1.rx[0], x1.rx[1]]) ++
          bracket .writeOnly [0x50, 0#1 ++ h ++ o] .okDone) .writeOnly [0x58, 0#6 ++ r]
        (.initRange r o h)))

/-- 40_framer.md R74, 41_driver_ops.md R78: every command but INIT leaves BOUND and the settings as they were, unless
a RESET lands in it. -/
def Obligations.OnlyInitWritesSettings : Prop :=
  ∀ (i : Instr) (s t : State), i.isCommand = true → (∀ rset rcode oset ocode hset hcode,
      i ≠ .init rset rcode oset ocode hset hcode) →
    exec i s = .next t → t.justReset = true ∨ t.settings = s.settings

/-- 10_state.md R28, 20_memory.md R42: every instruction answers a next state; none changes the parameters, the offered
commands or the host's ready line; it takes answers from the front only; the trace only grows; none but GETID
draws a value. (The queues, the ready line and the counter are the model's carriers: entries 1, 2, 8, 9.) -/
def Obligations.ExecLeavesInputs : Prop :=
  ∀ (i : Instr) (s : State), ∃ t, exec i s = .next t ∧
    t.params = s.params ∧ t.cmdIn = s.cmdIn ∧ t.rspReady = s.rspReady ∧ t.xrspIn <:+ s.xrspIn ∧
    s.trace <+: t.trace ∧ s.draws ≤ t.draws ∧ t.draws ≤ s.draws + 1 ∧
    (i ≠ .getid → t.draws = s.draws)

/-! ### Invariants of every step -/

/-- The four invariants hold at reset. -/
def Obligations.InvariantsHoldAtReset : Prop :=
  State.reset.settingsOk = true ∧ State.reset.channelsOk = true ∧ State.reset.traceOk = true ∧
    State.reset.framesOk = true

/-- 10_state.md R18, R19, R20: the settings registers always hold legal codes. -/
def Obligations.SettingsStayLegal : Prop :=
  ∀ s t : State, s.settingsOk = true → step s = .next t → t.settingsOk = true

/-- 10_state.md R22, R27, 20_memory.md R43: CS_N is low exactly while one well-shaped request is outstanding, and a
response is pending exactly while one is offered; a step from such a state is neither a fault nor a refusal, so no
rule reads a buffer without a value (10_state.md R25, R30). -/
def Obligations.ChannelsStayConsistent : Prop :=
  (∀ s t : State, s.channelsOk = true → step s = .next t → t.channelsOk = true) ∧
  ∀ s : State, s.channelsOk = true → ∃ t, step s = .next t

/-- 20_memory.md R42, 70_reset_and_hazards.md R111: the event trace stays a word of `CMD (CS(0) XFER CS(1))* RSP` blocks,
separated or cut short by RESETs. -/
def Obligations.TraceStaysWellFormed : Prop :=
  ∀ s t : State, s.traceOk = true → step s = .next t → t.traceOk = true

/-- 30_encoding.md R48, 40_framer.md R73: every frame ever sent is one of the three shapes with its own transfer kind,
and its answer has the contract's form. -/
def Obligations.FramesStayWellShaped : Prop :=
  ∀ s t : State, s.framesOk = true → step s = .next t → t.framesOk = true

/-- 10_state.md R31: while BOUND = 1, no step changes the settings or BOUND but RESET, and INIT is refused with
ALREADY_BOUND. -/
def Obligations.SettingsImmutableWhileBound : Prop :=
  (∀ s t : State, s.settingsOk = true → s.bound = true → step s = .next t →
    t.justReset = true ∨ t.settings = s.settings) ∧
  (∀ (s : State) (rset oset hset : Bool) (rcode : BitVec 2) (ocode : BitVec 4) (hcode : BitVec 3),
    s.bound = true → s.Calm →
    exec (.init rset rcode oset ocode hset hcode) s = .next (s.endedAtOnce { status := .alreadyBound }))

/-- 10_state.md R17: only an INIT that responds OK sets BOUND, and only RESET clears it. -/
def Obligations.OnlySuccessfulInitBinds : Prop :=
  ∀ s t : State, step s = .next t →
    (s.bound = false → t.bound = true → s.RunsInit ∧ t.RespondsOk) ∧
    (s.bound = true → t.bound = false → t.justReset = true)

/-- 10_state.md R26: a command is accepted only in IDLE, and at most one in a step, which is its first event. -/
def Obligations.CommandsAcceptedOnlyWhenIdle : Prop :=
  ∀ (s t : State) (new : List Event) (w : Word), step s = .next t → t.trace = s.trace ++ new → Event.cmd w ∈ new →
    s.phase = .idle ∧ s.cmdIn.head? = some w ∧ new.head? = some (.cmd w) ∧ ∀ w', Event.cmd w' ∉ new.tail

/-- 40_framer.md R73 (U1): rx(0), the byte of the address slot, affects nothing but its own place in the trace and the
buffer: two states that differ in such bytes alone, received or to come, have the same steps and instructions but
for such bytes. -/
def Obligations.AddressSlotIgnored : Prop :=
  ∀ s u : State, s.dropSlot0 = u.dropSlot0 →
    (∀ t, step s = .next t → ∃ t', step u = .next t' ∧ t.dropSlot0 = t'.dropSlot0) ∧
    (∀ f, step s = .fault f → step u = .fault f) ∧
    (∀ r, step s = .refused r → step u = .refused r) ∧
    ∀ (i : Instr) (t : State), exec i s = .next t → ∃ t', exec i u = .next t' ∧ t.dropSlot0 = t'.dropSlot0

/-! ### Responses and statuses -/

/-- 10_state.md R23 (U3): reading a field that is not driven faults, and a driven one gives its value. R30: so does
reading a buffer without a value, which the model holds as the empty list (the model's reading, entry 17); that a
byte past the end of a frame has no value either is the model's inference (entry 23). Each of the rules that read
rx(i), waiting with a write's request and so left without a received byte, and the sending of an empty TXBUF, stop
with that fault. -/
def Obligations.UndrivenFieldFaults : Prop :=
  (∀ (s : State) (i : Nat),
    (∀ h : i < s.rxBuf.length, s.rx i = .ok s.rxBuf[i]) ∧ (s.rxBuf.length ≤ i → s.rx i = .error .noBufferValue) ∧
    (∀ h : i < s.txBuf.length, s.tx i = .ok s.txBuf[i]) ∧ (s.txBuf.length ≤ i → s.tx i = .error .noBufferValue)) ∧
  (∀ (s : State) (ret : Ret) (tx : List Byte) (x : Xrsp) (later : List Xrsp), s.resetIn = [] →
    s.phase = .busy (.await ret) →
    (ret ∈ [Ret.rd, .getid, .temp, .accr, .accn] ∨ (∃ len, len ≠ 0 ∧ ret = .brd len) ∨ ∃ r o h, ret = .initId r o h) →
    s.xreq = some { kind := .writeOnly, tx := tx } → s.live = x :: later → x.ok = true →
    step s = .fault .noBufferValue) ∧
  (∀ s : State, s.resetIn = [] → s.phase = .busy .send → s.txBuf = [] → step s = .fault .noBufferValue) ∧
  ∀ (r : Response) (w : Word) (e : Terr) (n : BitVec 4),
    (r.d0 = none → r.read .d0 = .error .undrivenField) ∧ (r.d0 = some w → r.read .d0 = .ok (.word w)) ∧
    (r.d1 = none → r.read .d1 = .error .undrivenField) ∧ (r.d1 = some w → r.read .d1 = .ok (.word w)) ∧
    (r.d2 = none → r.read .d2 = .error .undrivenField) ∧ (r.d2 = some w → r.read .d2 = .ok (.word w)) ∧
    (r.terr = none → r.read .terr = .error .undrivenField) ∧ (r.terr = some e → r.read .terr = .ok (.terr e)) ∧
    (r.len = none → r.read .len = .error .undrivenField) ∧ (r.len = some n → r.read .len = .ok (.len n)) ∧
    (∀ k, r.bytes.length ≤ k → r.read (.byte k) = .error .undrivenField) ∧
    (∀ k (h : k < r.bytes.length), r.read (.byte k) = .ok (.byte r.bytes[k]))

/-- 60_exceptions.md R93: the codes of the statuses are 0 to 5, each status its own, and 6 and 7 are never produced. -/
def Obligations.StatusCodes : Prop :=
  Status.ok.code = 0 ∧ Status.transportError.code = 1 ∧ Status.unexpectedDeviceId.code = 2 ∧
  Status.notBound.code = 3 ∧ Status.alreadyBound.code = 4 ∧ Status.illegalCommand.code = 5 ∧
  (∀ a b : Status, a.code = b.code → a = b) ∧ ∀ a : Status, a.code ≠ 6 ∧ a.code ≠ 7

/-- 41_driver_ops.md R80: a second START sends the same frame again and leaves the block's state as the first did. -/
def Obligations.StartTwiceSendsTwoFrames : Prop :=
  ∀ (s : State) (x1 x2 : Xrsp) (later : List Xrsp), s.Calm → s.bound = true → x1.ok = true → x2.ok = true →
    s.live = x1 :: x2 :: later →
    ∃ t u, exec .start s = .next t ∧ exec .start t = .next u ∧
      t.trace = s.trace ++ bracket .writeOnly [0x5A, 0x00] .okDone ++ [.rsp { status := .ok }] ∧
      u.trace = t.trace ++ bracket .writeOnly [0x5A, 0x00] .okDone ++ [.rsp { status := .ok }] ∧
      { u with trace := t.trace, xrspIn := t.xrspIn } = t
end

