-- ==== Sys2Proof/Laws/Float.lean ====
section
/-! SUPPORT. What the rounding operations do: nearest integers, the exponent of a rounding, the value of a pattern. -/

namespace Sys2Proof.Machine

/-! ### Rounding to an integer -/

/-- The rounded quotient is within half of the divisor. -/
theorem nearestEven_bounds (a b : Nat) (hb : 0 < b) :
    2 * a ≤ 2 * (b * nearestEven a b) + b ∧ 2 * (b * nearestEven a b) ≤ 2 * a + b := by
  have hm := Nat.div_add_mod a b
  have hr := Nat.mod_lt a hb
  unfold nearestEven
  simp only
  split
  · rw [Nat.mul_add, Nat.mul_one]
    omega
  · omega

/-- At a distance of exactly half, the rounded quotient is even. -/
theorem nearestEven_tie (a b : Nat) (hb : 0 < b)
    (h : 2 * a = 2 * (b * nearestEven a b) + b ∨ 2 * (b * nearestEven a b) = 2 * a + b) :
    nearestEven a b % 2 = 0 := by
  have hm := Nat.div_add_mod a b
  have hr := Nat.mod_lt a hb
  unfold nearestEven at *
  simp only at *
  split at h <;> rename_i hc
  · rw [if_pos hc]
    rw [Nat.mul_add, Nat.mul_one] at h
    omega
  · rw [if_neg hc]
    omega

/-- Rounding keeps the order of quotients. -/
theorem nearestEven_mono {a b c d : Nat} (hb : 0 < b) (hd : 0 < d) (h : a * d ≤ c * b) :
    nearestEven a b ≤ nearestEven c d := by
  by_contra hlt
  obtain ⟨-, h1⟩ := nearestEven_bounds a b hb
  obtain ⟨h2, -⟩ := nearestEven_bounds c d hd
  have hn : nearestEven c d + 1 ≤ nearestEven a b := by omega
  generalize hm : nearestEven a b = m at *
  generalize hk : nearestEven c d = n at *
  have e1 : 2 * (b * m) * d ≤ (2 * a + b) * d := Nat.mul_le_mul_right d h1
  have e2 : 2 * c * b ≤ (2 * (d * n) + d) * b := Nat.mul_le_mul_right b h2
  have e3 : b * d * (n + 1) ≤ b * d * m := Nat.mul_le_mul_left _ hn
  have hbd : 0 < b * d := Nat.mul_pos hb hd
  have hmn : m = n + 1 := by
    by_contra hne
    have : b * d * (n + 2) ≤ b * d * m := Nat.mul_le_mul_left _ (by omega)
    nlinarith
  have t1 : 2 * (b * m) = 2 * a + b := by
    have : (2 * a + b) * d ≤ 2 * (b * m) * d := by rw [hmn]; nlinarith
    exact le_antisymm h1 (Nat.le_of_mul_le_mul_right this hd)
  have t2 : 2 * c = 2 * (d * n) + d := by
    have : (2 * (d * n) + d) * b ≤ 2 * c * b := by rw [hmn] at e1; nlinarith
    exact le_antisymm h2 (Nat.le_of_mul_le_mul_right this hb)
  have p1 := nearestEven_tie a b hb (.inr (by rw [hm]; exact t1))
  have p2 := nearestEven_tie c d hd (.inl (by rw [hk]; exact t2))
  rw [hm] at p1
  rw [hk] at p2
  omega

/-! ### The exponent of a rounding -/

theorem roundExp_pos (num den : Nat) : 1 ≤ roundExp num den := Nat.le_max_left _ _

/-- The exponent that brings `a / den` below `2 ^ 24`, and to at least `2 ^ 23` unless it is 1. -/
theorem scaleExp_bounds (a den : Nat) (hd : 0 < den) :
    a < den * 2 ^ max 1 (Nat.log2 (a / den) - 23) * 2 ^ 24 ∧
    (max 1 (Nat.log2 (a / den) - 23) = 1 ∨ den * 2 ^ max 1 (Nat.log2 (a / den) - 23) * 2 ^ 23 ≤ a) := by
  have hlt : a < den * (a / den + 1) := Nat.lt_mul_div_succ a hd
  have hle : den * (a / den) ≤ a := Nat.mul_div_le a den
  generalize a / den = x at *
  have hup : x + 1 ≤ 2 ^ (Nat.log2 x + 1) := Nat.lt_log2_self
  have hlow : x ≠ 0 → 2 ^ Nat.log2 x ≤ x := Nat.log2_self_le
  have hzero : x = 0 → Nat.log2 x = 0 := by
    rintro rfl
    simp
  generalize Nat.log2 x = t at *
  have split24 : ∀ e, den * 2 ^ e * 2 ^ 24 = den * 2 ^ (e + 24) := fun e => by rw [pow_add, mul_assoc]
  have split23 : ∀ e, den * 2 ^ e * 2 ^ 23 = den * 2 ^ (e + 23) := fun e => by rw [pow_add, mul_assoc]
  constructor
  · rw [split24]
    have hmono : 2 ^ (t + 1) ≤ 2 ^ (max 1 (t - 23) + 24) := Nat.pow_le_pow_right (by omega) (by omega)
    exact hlt.trans_le (Nat.mul_le_mul_left den (hup.trans hmono))
  · by_cases hc : t - 23 ≤ 1
    · exact .inl (by omega)
    · right
      have hx : x ≠ 0 := fun h => hc (by rw [hzero h]; omega)
      have he : max 1 (t - 23) + 23 = t := by omega
      rw [split23, he]
      exact (Nat.mul_le_mul_left den (hlow hx)).trans hle

/-- The significand is below `2 ^ 24`, and at least `2 ^ 23` unless the exponent is that of the subnormals. -/
theorem roundExp_bounds (num den : Nat) (hd : 0 < den) :
    num * 2 ^ 150 < den * 2 ^ roundExp num den * 2 ^ 24 ∧
    (roundExp num den = 1 ∨ den * 2 ^ roundExp num den * 2 ^ 23 ≤ num * 2 ^ 150) :=
  scaleExp_bounds (num * 2 ^ 150) den hd

/-- The significand that a rounding packs: at most `2 ^ 24`, and at least `2 ^ 23` above the subnormals. -/
theorem roundSig_bounds (num den : Nat) (hd : 0 < den) :
    nearestEven (num * 2 ^ 150) (den * 2 ^ roundExp num den) ≤ 2 ^ 24 ∧
    (roundExp num den = 1 ∨ 2 ^ 23 ≤ nearestEven (num * 2 ^ 150) (den * 2 ^ roundExp num den)) := by
  obtain ⟨h1, h2⟩ := roundExp_bounds num den hd
  have hb : 0 < den * 2 ^ roundExp num den := Nat.mul_pos hd (Nat.two_pow_pos _)
  generalize roundExp num den = e at *
  have key : ∀ k, nearestEven (k * (den * 2 ^ e)) (den * 2 ^ e) = k := by
    intro k
    unfold nearestEven
    simp [Nat.mul_mod_left, Nat.mul_div_cancel _ hb]
    intro h
    omega
  constructor
  · rw [← key (2 ^ 24)]
    exact nearestEven_mono hb hb (Nat.mul_le_mul_right _ (by rw [Nat.mul_comm (2 ^ 24)]; exact h1.le))
  · rcases h2 with h2 | h2
    · exact .inl h2
    · refine .inr ?_
      rw [← key (2 ^ 23)]
      exact nearestEven_mono hb hb (Nat.mul_le_mul_right _ (by rw [Nat.mul_comm (2 ^ 23)]; exact h2))

/-! ### Order and error of a rounding -/

/-- The exponent of a rounding grows with the quotient. -/
theorem roundExp_mono {a b c d : Nat} (hb : 0 < b) (hd : 0 < d) (h : a * d ≤ c * b) :
    roundExp a b ≤ roundExp c d := by
  have hq : a * 2 ^ 150 / b ≤ c * 2 ^ 150 / d := by
    rw [Nat.le_div_iff_mul_le hd]
    refine Nat.le_of_mul_le_mul_right ?_ hb
    calc a * 2 ^ 150 / b * d * b = a * 2 ^ 150 / b * b * d := by ring
      _ ≤ a * 2 ^ 150 * d := Nat.mul_le_mul_right _ (Nat.div_mul_le_self _ _)
      _ = a * d * 2 ^ 150 := by ring
      _ ≤ c * b * 2 ^ 150 := Nat.mul_le_mul_right _ h
      _ = c * 2 ^ 150 * b := by ring
  have hlog : Nat.log2 (a * 2 ^ 150 / b) ≤ Nat.log2 (c * 2 ^ 150 / d) := by
    simpa [Nat.log2_eq_log_two] using Nat.log_mono_right hq
  unfold roundExp
  omega

/-- The packed bits of a smaller exponent and significand are no larger. -/
theorem pack_le {e f m n : Nat} (he : e ≤ f) (p1 : 1 ≤ e) (h1 : m ≤ 2 ^ 24) (h2 : f = 1 ∨ 2 ^ 23 ≤ n)
    (hs : e = f → m ≤ n) : (e - 1) * 2 ^ 23 + m ≤ (f - 1) * 2 ^ 23 + n := by
  obtain ⟨k, rfl⟩ : ∃ k, e = k + 1 := ⟨e - 1, by omega⟩
  obtain ⟨l, rfl⟩ : ∃ l, f = l + 1 := ⟨f - 1, by omega⟩
  simp only [Nat.add_sub_cancel]
  omega

/-- Rounding keeps the order. -/
theorem roundBits_mono {a b c d : Nat} (hb : 0 < b) (hd : 0 < d) (h : a * d ≤ c * b) :
    roundBits a b ≤ roundBits c d := by
  have he := roundExp_mono hb hd h
  obtain ⟨h1, -⟩ := roundSig_bounds a b hb
  obtain ⟨-, h2⟩ := roundSig_bounds c d hd
  have p1 := roundExp_pos a b
  have hsame : roundExp a b = roundExp c d →
      nearestEven (a * 2 ^ 150) (b * 2 ^ roundExp a b) ≤ nearestEven (c * 2 ^ 150) (d * 2 ^ roundExp c d) := by
    intro heq
    rw [heq]
    refine nearestEven_mono (Nat.mul_pos hb (Nat.two_pow_pos _)) (Nat.mul_pos hd (Nat.two_pow_pos _)) ?_
    calc a * 2 ^ 150 * (d * 2 ^ roundExp c d) = a * d * (2 ^ 150 * 2 ^ roundExp c d) := by ring
      _ ≤ c * b * (2 ^ 150 * 2 ^ roundExp c d) := Nat.mul_le_mul_right _ h
      _ = c * 2 ^ 150 * (b * 2 ^ roundExp c d) := by ring
  exact min_le_min le_rfl (pack_le he p1 h1 h2 hsame)

/-- Above the subnormals a rounding is off by at most one part in `2 ^ 24`. -/
theorem round_error (num den : Nat) (hd : 0 < den) (hn : roundExp num den ≠ 1) :
    |((nearestEven (num * 2 ^ 150) (den * 2 ^ roundExp num den) * 2 ^ roundExp num den : Nat) : ℚ) / 2 ^ 150 -
        (num : ℚ) / den| ≤ (num : ℚ) / den / 2 ^ 24 := by
  obtain ⟨-, h2⟩ := roundExp_bounds num den hd
  have hb : 0 < den * 2 ^ roundExp num den := Nat.mul_pos hd (Nat.two_pow_pos _)
  obtain ⟨h3, h4⟩ := nearestEven_bounds (num * 2 ^ 150) (den * 2 ^ roundExp num den) hb
  have h5 := h2.resolve_left hn
  generalize nearestEven (num * 2 ^ 150) (den * 2 ^ roundExp num den) = n at *
  generalize roundExp num den = e at *
  have hdq : (0 : ℚ) < den := by exact_mod_cast hd
  have q3 : 2 * ((num : ℚ) * 2 ^ 150) ≤ 2 * (den * 2 ^ e * n) + den * 2 ^ e := by exact_mod_cast h3
  have q4 : 2 * ((den : ℚ) * 2 ^ e * n) ≤ 2 * (num * 2 ^ 150) + den * 2 ^ e := by exact_mod_cast h4
  have q5 : (den : ℚ) * 2 ^ e * 2 ^ 23 ≤ num * 2 ^ 150 := by exact_mod_cast h5
  rw [div_sub_div _ _ (by positivity) hdq.ne', abs_le]
  push_cast
  constructor
  · rw [neg_le_iff_add_nonneg, div_div, div_add_div _ _ (by positivity) (by positivity)]
    apply div_nonneg _ (by positivity)
    nlinarith
  · rw [div_div, div_le_div_iff₀ (by positivity) (by positivity)]
    nlinarith

/-! ### The value of a pattern -/

/-- The fields of a pattern made from magnitude bits. -/
theorem f32_fields (neg : Bool) (m : Nat) (hm : m < 2 ^ 31) :
    (f32Pack neg m).msb = neg ∧ f32Exp (f32Pack neg m) = m / 2 ^ 23 ∧ f32Frac (f32Pack neg m) = m % 2 ^ 23 := by
  have hn : (f32Pack neg m).toNat = neg.toNat * 2 ^ 31 + m := by
    unfold f32Pack
    rw [BitVec.toNat_append]
    simp only [BitVec.toNat_ofBool, BitVec.toNat_ofNat, Nat.mod_eq_of_lt hm]
    rw [← Nat.shiftLeft_add_eq_or_of_lt hm, Nat.shiftLeft_eq]
  refine ⟨?_, ?_, ?_⟩
  · rw [BitVec.msb_eq_decide, hn]
    cases neg
    · simpa using hm
    · simp
  · simp only [f32Exp, BitVec.extractLsb'_toNat, hn, Nat.shiftRight_eq_div_pow]
    cases neg <;> simp <;> omega
  · simp only [f32Frac, BitVec.extractLsb'_toNat, hn, Nat.shiftRight_zero]
    cases neg
    · simp
    · simp only [Bool.toNat_true]
      omega

/-- A significand `n` at the exponent `e`, packed, has the value `± n * 2 ^ e / 2 ^ 150`; a significand of `2 ^ 24`
carries into the exponent. -/
theorem f32Value_pack (neg : Bool) (e n : Nat) (he : 1 ≤ e) (hn : n ≤ 2 ^ 24) (hs : e = 1 ∨ 2 ^ 23 ≤ n)
    (hf : (e - 1) * 2 ^ 23 + n < f32InfBits) :
    f32Value (f32Pack neg ((e - 1) * 2 ^ 23 + n)) = (if neg then -1 else 1) * ((n * 2 ^ e : Nat) : ℚ) / 2 ^ 150 := by
  obtain ⟨h1, h2, h3⟩ := f32_fields neg ((e - 1) * 2 ^ 23 + n) (by unfold f32InfBits at hf; omega)
  unfold f32Value
  rw [h1]
  congr 2
  congr 1
  unfold f32Sig f32Scale
  rw [h2, h3]
  obtain ⟨k, rfl⟩ : ∃ k, e = k + 1 := ⟨e - 1, by omega⟩
  simp only [Nat.add_sub_cancel] at *
  rcases Nat.lt_or_ge n (2 ^ 23) with hlt | hge
  · obtain rfl : k = 0 := by omega
    have d1 : (0 * 2 ^ 23 + n) / 2 ^ 23 = 0 := by omega
    have d2 : (0 * 2 ^ 23 + n) % 2 ^ 23 = n := by omega
    rw [d1, d2, if_pos rfl]
    rfl
  · rcases Nat.lt_or_ge n (2 ^ 24) with hlt' | hge'
    · have d1 : (k * 2 ^ 23 + n) / 2 ^ 23 = k + 1 := by omega
      have d2 : (k * 2 ^ 23 + n) % 2 ^ 23 = n - 2 ^ 23 := by omega
      have d3 : 2 ^ 23 + (n - 2 ^ 23) = n := by omega
      have d4 : max 1 (k + 1) = k + 1 := by omega
      rw [d1, d2, if_neg (by omega), d3, d4]
    · obtain rfl : n = 2 ^ 24 := by omega
      have d1 : (k * 2 ^ 23 + 2 ^ 24) / 2 ^ 23 = k + 2 := by omega
      have d2 : (k * 2 ^ 23 + 2 ^ 24) % 2 ^ 23 = 0 := by omega
      have d4 : max 1 (k + 2) = k + 2 := by omega
      rw [d1, d2, if_neg (by omega), d4]
      ring

/-- The value of a rounding that stays finite. -/
theorem f32Value_roundF32 (neg : Bool) (num den : Nat) (hd : 0 < den) (hf : roundBits num den < f32InfBits) :
    f32Value (roundF32 neg num den) =
      (if neg then -1 else 1) *
        ((nearestEven (num * 2 ^ 150) (den * 2 ^ roundExp num den) * 2 ^ roundExp num den : Nat) : ℚ) / 2 ^ 150 := by
  obtain ⟨h1, h2⟩ := roundSig_bounds num den hd
  have hb : roundBits num den = (roundExp num den - 1) * 2 ^ 23 +
      nearestEven (num * 2 ^ 150) (den * 2 ^ roundExp num den) := by
    simp only [roundBits] at *
    omega
  rw [roundF32, hb]
  exact f32Value_pack neg _ _ (roundExp_pos _ _) h1 h2 (hb ▸ hf)

end Sys2Proof.Machine
end

