-- ==== Sys2Proof/Laws/State.lean ====
section
/-! SUPPORT. One lemma per field per state update: what the update leaves in the field. -/

namespace Sys2Proof.Machine

variable (s : State)

@[simp] theorem State.record_params (e : Event) : (s.record e).params = s.params := rfl
@[simp] theorem State.record_phase (e : Event) : (s.record e).phase = s.phase := rfl
@[simp] theorem State.record_bound (e : Event) : (s.record e).bound = s.bound := rfl
@[simp] theorem State.record_rangeSel (e : Event) : (s.record e).rangeSel = s.rangeSel := rfl
@[simp] theorem State.record_odrSel (e : Event) : (s.record e).odrSel = s.odrSel := rfl
@[simp] theorem State.record_hpfSel (e : Event) : (s.record e).hpfSel = s.hpfSel := rfl
@[simp] theorem State.record_csN (e : Event) : (s.record e).csN = s.csN := rfl
@[simp] theorem State.record_txBuf (e : Event) : (s.record e).txBuf = s.txBuf := rfl
@[simp] theorem State.record_rxBuf (e : Event) : (s.record e).rxBuf = s.rxBuf := rfl
@[simp] theorem State.record_xreq (e : Event) : (s.record e).xreq = s.xreq := rfl
@[simp] theorem State.record_rsp (e : Event) : (s.record e).rsp = s.rsp := rfl
@[simp] theorem State.record_cmdIn (e : Event) : (s.record e).cmdIn = s.cmdIn := rfl
@[simp] theorem State.record_xrspIn (e : Event) : (s.record e).xrspIn = s.xrspIn := rfl
@[simp] theorem State.record_stale (e : Event) : (s.record e).stale = s.stale := rfl
@[simp] theorem State.record_live (e : Event) : (s.record e).live = s.live := rfl
@[simp] theorem State.record_rspReady (e : Event) : (s.record e).rspReady = s.rspReady := rfl
@[simp] theorem State.record_resetIn (e : Event) : (s.record e).resetIn = countdown s.resetIn := rfl
@[simp] theorem State.record_trace (e : Event) : (s.record e).trace = s.trace ++ [e] := rfl
@[simp] theorem State.record_draws (e : Event) : (s.record e).draws = s.draws := rfl

@[simp] theorem State.applyReset_params : (s.applyReset).params = s.params := rfl
@[simp] theorem State.applyReset_phase : (s.applyReset).phase = .idle := rfl
@[simp] theorem State.applyReset_bound : (s.applyReset).bound = false := rfl
@[simp] theorem State.applyReset_rangeSel : (s.applyReset).rangeSel = 0b01 := rfl
@[simp] theorem State.applyReset_odrSel : (s.applyReset).odrSel = 10 := rfl
@[simp] theorem State.applyReset_hpfSel : (s.applyReset).hpfSel = 0 := rfl
@[simp] theorem State.applyReset_csN : (s.applyReset).csN = .high := rfl
@[simp] theorem State.applyReset_txBuf : (s.applyReset).txBuf = [] := rfl
@[simp] theorem State.applyReset_rxBuf : (s.applyReset).rxBuf = [] := rfl
@[simp] theorem State.applyReset_xreq : (s.applyReset).xreq = none := rfl
@[simp] theorem State.applyReset_rsp : (s.applyReset).rsp = none := rfl
@[simp] theorem State.applyReset_cmdIn : (s.applyReset).cmdIn = s.cmdIn := rfl
@[simp] theorem State.applyReset_xrspIn : (s.applyReset).xrspIn = s.xrspIn := rfl
@[simp] theorem State.applyReset_stale : (s.applyReset).stale = (if s.leavesLate then s.stale + 1 else s.stale) := rfl
@[simp] theorem State.applyReset_rspReady : (s.applyReset).rspReady = s.rspReady := rfl
@[simp] theorem State.applyReset_resetIn : (s.applyReset).resetIn = s.resetIn.tail := rfl
@[simp] theorem State.applyReset_trace : (s.applyReset).trace = s.trace ++ [.reset] := rfl
@[simp] theorem State.applyReset_draws : (s.applyReset).draws = s.draws := rfl

@[simp] theorem State.offer_params (r : Response) : (s.offer r).params = s.params := rfl
@[simp] theorem State.offer_phase (r : Response) : (s.offer r).phase = .busy .respond := rfl
@[simp] theorem State.offer_bound (r : Response) : (s.offer r).bound = s.bound := rfl
@[simp] theorem State.offer_rangeSel (r : Response) : (s.offer r).rangeSel = s.rangeSel := rfl
@[simp] theorem State.offer_odrSel (r : Response) : (s.offer r).odrSel = s.odrSel := rfl
@[simp] theorem State.offer_hpfSel (r : Response) : (s.offer r).hpfSel = s.hpfSel := rfl
@[simp] theorem State.offer_csN (r : Response) : (s.offer r).csN = s.csN := rfl
@[simp] theorem State.offer_txBuf (r : Response) : (s.offer r).txBuf = s.txBuf := rfl
@[simp] theorem State.offer_rxBuf (r : Response) : (s.offer r).rxBuf = s.rxBuf := rfl
@[simp] theorem State.offer_xreq (r : Response) : (s.offer r).xreq = s.xreq := rfl
@[simp] theorem State.offer_rsp (r : Response) : (s.offer r).rsp = some r := rfl
@[simp] theorem State.offer_cmdIn (r : Response) : (s.offer r).cmdIn = s.cmdIn := rfl
@[simp] theorem State.offer_xrspIn (r : Response) : (s.offer r).xrspIn = s.xrspIn := rfl
@[simp] theorem State.offer_stale (r : Response) : (s.offer r).stale = s.stale := rfl
@[simp] theorem State.offer_live (r : Response) : (s.offer r).live = s.live := rfl
@[simp] theorem State.offer_rspReady (r : Response) : (s.offer r).rspReady = s.rspReady := rfl
@[simp] theorem State.offer_resetIn (r : Response) : (s.offer r).resetIn = s.resetIn := rfl
@[simp] theorem State.offer_trace (r : Response) : (s.offer r).trace = s.trace := rfl
@[simp] theorem State.offer_draws (r : Response) : (s.offer r).draws = s.draws := rfl

@[simp] theorem State.taken_params (r : Response) : (s.taken r).params = s.params := rfl
@[simp] theorem State.taken_phase (r : Response) : (s.taken r).phase = .idle := rfl
@[simp] theorem State.taken_bound (r : Response) : (s.taken r).bound = s.bound := rfl
@[simp] theorem State.taken_rangeSel (r : Response) : (s.taken r).rangeSel = s.rangeSel := rfl
@[simp] theorem State.taken_odrSel (r : Response) : (s.taken r).odrSel = s.odrSel := rfl
@[simp] theorem State.taken_hpfSel (r : Response) : (s.taken r).hpfSel = s.hpfSel := rfl
@[simp] theorem State.taken_csN (r : Response) : (s.taken r).csN = s.csN := rfl
@[simp] theorem State.taken_txBuf (r : Response) : (s.taken r).txBuf = [] := rfl
@[simp] theorem State.taken_rxBuf (r : Response) : (s.taken r).rxBuf = [] := rfl
@[simp] theorem State.taken_xreq (r : Response) : (s.taken r).xreq = s.xreq := rfl
@[simp] theorem State.taken_rsp (r : Response) : (s.taken r).rsp = none := rfl
@[simp] theorem State.taken_cmdIn (r : Response) : (s.taken r).cmdIn = s.cmdIn := rfl
@[simp] theorem State.taken_xrspIn (r : Response) : (s.taken r).xrspIn = s.xrspIn := rfl
@[simp] theorem State.taken_stale (r : Response) : (s.taken r).stale = s.stale := rfl
@[simp] theorem State.taken_live (r : Response) : (s.taken r).live = s.live := rfl
@[simp] theorem State.taken_rspReady (r : Response) : (s.taken r).rspReady = s.rspReady := rfl
@[simp] theorem State.taken_resetIn (r : Response) : (s.taken r).resetIn = countdown s.resetIn := rfl
@[simp] theorem State.taken_trace (r : Response) : (s.taken r).trace = s.trace ++ [.rsp r] := rfl
@[simp] theorem State.taken_draws (r : Response) : (s.taken r).draws = s.draws := rfl

@[simp] theorem State.openFrame_params (kind : Kind) (tx : List Byte) (ret : Ret) : (s.openFrame kind tx ret).params = s.params := rfl
@[simp] theorem State.openFrame_phase (kind : Kind) (tx : List Byte) (ret : Ret) : (s.openFrame kind tx ret).phase = .busy (.await ret) := rfl
@[simp] theorem State.openFrame_bound (kind : Kind) (tx : List Byte) (ret : Ret) : (s.openFrame kind tx ret).bound = s.bound := rfl
@[simp] theorem State.openFrame_rangeSel (kind : Kind) (tx : List Byte) (ret : Ret) : (s.openFrame kind tx ret).rangeSel = s.rangeSel := rfl
@[simp] theorem State.openFrame_odrSel (kind : Kind) (tx : List Byte) (ret : Ret) : (s.openFrame kind tx ret).odrSel = s.odrSel := rfl
@[simp] theorem State.openFrame_hpfSel (kind : Kind) (tx : List Byte) (ret : Ret) : (s.openFrame kind tx ret).hpfSel = s.hpfSel := rfl
@[simp] theorem State.openFrame_csN (kind : Kind) (tx : List Byte) (ret : Ret) : (s.openFrame kind tx ret).csN = .low := rfl
@[simp] theorem State.openFrame_txBuf (kind : Kind) (tx : List Byte) (ret : Ret) : (s.openFrame kind tx ret).txBuf = tx := rfl
@[simp] theorem State.openFrame_rxBuf (kind : Kind) (tx : List Byte) (ret : Ret) : (s.openFrame kind tx ret).rxBuf = [] := rfl
@[simp] theorem State.openFrame_xreq (kind : Kind) (tx : List Byte) (ret : Ret) : (s.openFrame kind tx ret).xreq = some { kind := kind, tx := tx } := rfl
@[simp] theorem State.openFrame_rsp (kind : Kind) (tx : List Byte) (ret : Ret) : (s.openFrame kind tx ret).rsp = s.rsp := rfl
@[simp] theorem State.openFrame_cmdIn (kind : Kind) (tx : List Byte) (ret : Ret) : (s.openFrame kind tx ret).cmdIn = s.cmdIn := rfl
@[simp] theorem State.openFrame_xrspIn (kind : Kind) (tx : List Byte) (ret : Ret) : (s.openFrame kind tx ret).xrspIn = s.xrspIn := rfl
@[simp] theorem State.openFrame_stale (kind : Kind) (tx : List Byte) (ret : Ret) : (s.openFrame kind tx ret).stale = s.stale := rfl
@[simp] theorem State.openFrame_live (kind : Kind) (tx : List Byte) (ret : Ret) : (s.openFrame kind tx ret).live = s.live := rfl
@[simp] theorem State.openFrame_rspReady (kind : Kind) (tx : List Byte) (ret : Ret) : (s.openFrame kind tx ret).rspReady = s.rspReady := rfl
@[simp] theorem State.openFrame_resetIn (kind : Kind) (tx : List Byte) (ret : Ret) : (s.openFrame kind tx ret).resetIn = countdown s.resetIn := rfl
@[simp] theorem State.openFrame_trace (kind : Kind) (tx : List Byte) (ret : Ret) : (s.openFrame kind tx ret).trace = s.trace ++ [.cs .low] := rfl
@[simp] theorem State.openFrame_draws (kind : Kind) (tx : List Byte) (ret : Ret) : (s.openFrame kind tx ret).draws = s.draws := rfl

@[simp] theorem State.takeAnswer_params (q : Request) (x : Xrsp) (later : List Xrsp) : (s.takeAnswer q x later).params = s.params := rfl
@[simp] theorem State.takeAnswer_phase (q : Request) (x : Xrsp) (later : List Xrsp) : (s.takeAnswer q x later).phase = s.phase := rfl
@[simp] theorem State.takeAnswer_bound (q : Request) (x : Xrsp) (later : List Xrsp) : (s.takeAnswer q x later).bound = s.bound := rfl
@[simp] theorem State.takeAnswer_rangeSel (q : Request) (x : Xrsp) (later : List Xrsp) : (s.takeAnswer q x later).rangeSel = s.rangeSel := rfl
@[simp] theorem State.takeAnswer_odrSel (q : Request) (x : Xrsp) (later : List Xrsp) : (s.takeAnswer q x later).odrSel = s.odrSel := rfl
@[simp] theorem State.takeAnswer_hpfSel (q : Request) (x : Xrsp) (later : List Xrsp) : (s.takeAnswer q x later).hpfSel = s.hpfSel := rfl
@[simp] theorem State.takeAnswer_csN (q : Request) (x : Xrsp) (later : List Xrsp) : (s.takeAnswer q x later).csN = s.csN := rfl
@[simp] theorem State.takeAnswer_txBuf (q : Request) (x : Xrsp) (later : List Xrsp) : (s.takeAnswer q x later).txBuf = s.txBuf := rfl
@[simp] theorem State.takeAnswer_rxBuf (q : Request) (x : Xrsp) (later : List Xrsp) : (s.takeAnswer q x later).rxBuf = (x.answer q).bytes := rfl
@[simp] theorem State.takeAnswer_xreq (q : Request) (x : Xrsp) (later : List Xrsp) : (s.takeAnswer q x later).xreq = none := rfl
@[simp] theorem State.takeAnswer_rsp (q : Request) (x : Xrsp) (later : List Xrsp) : (s.takeAnswer q x later).rsp = s.rsp := rfl
@[simp] theorem State.takeAnswer_cmdIn (q : Request) (x : Xrsp) (later : List Xrsp) : (s.takeAnswer q x later).cmdIn = s.cmdIn := rfl
@[simp] theorem State.takeAnswer_xrspIn (q : Request) (x : Xrsp) (later : List Xrsp) : (s.takeAnswer q x later).xrspIn = later := rfl
@[simp] theorem State.takeAnswer_stale (q : Request) (x : Xrsp) (later : List Xrsp) : (s.takeAnswer q x later).stale = 0 := rfl
@[simp] theorem State.takeAnswer_live (q : Request) (x : Xrsp) (later : List Xrsp) : (s.takeAnswer q x later).live = later := rfl
@[simp] theorem State.takeAnswer_rspReady (q : Request) (x : Xrsp) (later : List Xrsp) : (s.takeAnswer q x later).rspReady = s.rspReady := rfl
@[simp] theorem State.takeAnswer_resetIn (q : Request) (x : Xrsp) (later : List Xrsp) : (s.takeAnswer q x later).resetIn = countdown s.resetIn := rfl
@[simp] theorem State.takeAnswer_trace (q : Request) (x : Xrsp) (later : List Xrsp) : (s.takeAnswer q x later).trace = s.trace ++ [.xfer q.kind q.tx (x.answer q)] := rfl
@[simp] theorem State.takeAnswer_draws (q : Request) (x : Xrsp) (later : List Xrsp) : (s.takeAnswer q x later).draws = s.draws := rfl

@[simp] theorem State.closeFrame_params : (s.closeFrame).params = s.params := rfl
@[simp] theorem State.closeFrame_phase : (s.closeFrame).phase = s.phase := rfl
@[simp] theorem State.closeFrame_bound : (s.closeFrame).bound = s.bound := rfl
@[simp] theorem State.closeFrame_rangeSel : (s.closeFrame).rangeSel = s.rangeSel := rfl
@[simp] theorem State.closeFrame_odrSel : (s.closeFrame).odrSel = s.odrSel := rfl
@[simp] theorem State.closeFrame_hpfSel : (s.closeFrame).hpfSel = s.hpfSel := rfl
@[simp] theorem State.closeFrame_csN : (s.closeFrame).csN = .high := rfl
@[simp] theorem State.closeFrame_txBuf : (s.closeFrame).txBuf = s.txBuf := rfl
@[simp] theorem State.closeFrame_rxBuf : (s.closeFrame).rxBuf = s.rxBuf := rfl
@[simp] theorem State.closeFrame_xreq : (s.closeFrame).xreq = s.xreq := rfl
@[simp] theorem State.closeFrame_rsp : (s.closeFrame).rsp = s.rsp := rfl
@[simp] theorem State.closeFrame_cmdIn : (s.closeFrame).cmdIn = s.cmdIn := rfl
@[simp] theorem State.closeFrame_xrspIn : (s.closeFrame).xrspIn = s.xrspIn := rfl
@[simp] theorem State.closeFrame_stale : (s.closeFrame).stale = s.stale := rfl
@[simp] theorem State.closeFrame_live : (s.closeFrame).live = s.live := rfl
@[simp] theorem State.closeFrame_rspReady : (s.closeFrame).rspReady = s.rspReady := rfl
@[simp] theorem State.closeFrame_resetIn : (s.closeFrame).resetIn = countdown s.resetIn := rfl
@[simp] theorem State.closeFrame_trace : (s.closeFrame).trace = s.trace ++ [.cs .high] := rfl
@[simp] theorem State.closeFrame_draws : (s.closeFrame).draws = s.draws := rfl

@[simp] theorem State.latch_params (r : BitVec 2) (o : BitVec 4) (h : BitVec 3) : (s.latch r o h).params = s.params := rfl
@[simp] theorem State.latch_phase (r : BitVec 2) (o : BitVec 4) (h : BitVec 3) : (s.latch r o h).phase = s.phase := rfl
@[simp] theorem State.latch_bound (r : BitVec 2) (o : BitVec 4) (h : BitVec 3) : (s.latch r o h).bound = true := rfl
@[simp] theorem State.latch_rangeSel (r : BitVec 2) (o : BitVec 4) (h : BitVec 3) : (s.latch r o h).rangeSel = r := rfl
@[simp] theorem State.latch_odrSel (r : BitVec 2) (o : BitVec 4) (h : BitVec 3) : (s.latch r o h).odrSel = o := rfl
@[simp] theorem State.latch_hpfSel (r : BitVec 2) (o : BitVec 4) (h : BitVec 3) : (s.latch r o h).hpfSel = (match s.params.variant with | .full => h | .minimal => 0) := rfl
@[simp] theorem State.latch_csN (r : BitVec 2) (o : BitVec 4) (h : BitVec 3) : (s.latch r o h).csN = s.csN := rfl
@[simp] theorem State.latch_txBuf (r : BitVec 2) (o : BitVec 4) (h : BitVec 3) : (s.latch r o h).txBuf = s.txBuf := rfl
@[simp] theorem State.latch_rxBuf (r : BitVec 2) (o : BitVec 4) (h : BitVec 3) : (s.latch r o h).rxBuf = s.rxBuf := rfl
@[simp] theorem State.latch_xreq (r : BitVec 2) (o : BitVec 4) (h : BitVec 3) : (s.latch r o h).xreq = s.xreq := rfl
@[simp] theorem State.latch_rsp (r : BitVec 2) (o : BitVec 4) (h : BitVec 3) : (s.latch r o h).rsp = s.rsp := rfl
@[simp] theorem State.latch_cmdIn (r : BitVec 2) (o : BitVec 4) (h : BitVec 3) : (s.latch r o h).cmdIn = s.cmdIn := rfl
@[simp] theorem State.latch_xrspIn (r : BitVec 2) (o : BitVec 4) (h : BitVec 3) : (s.latch r o h).xrspIn = s.xrspIn := rfl
@[simp] theorem State.latch_stale (r : BitVec 2) (o : BitVec 4) (h : BitVec 3) : (s.latch r o h).stale = s.stale := rfl
@[simp] theorem State.latch_live (r : BitVec 2) (o : BitVec 4) (h : BitVec 3) : (s.latch r o h).live = s.live := rfl
@[simp] theorem State.latch_rspReady (r : BitVec 2) (o : BitVec 4) (h : BitVec 3) : (s.latch r o h).rspReady = s.rspReady := rfl
@[simp] theorem State.latch_resetIn (r : BitVec 2) (o : BitVec 4) (h : BitVec 3) : (s.latch r o h).resetIn = s.resetIn := rfl
@[simp] theorem State.latch_trace (r : BitVec 2) (o : BitVec 4) (h : BitVec 3) : (s.latch r o h).trace = s.trace := rfl
@[simp] theorem State.latch_draws (r : BitVec 2) (o : BitVec 4) (h : BitVec 3) : (s.latch r o h).draws = s.draws := rfl

@[simp] theorem State.drawn_params : (s.drawn).params = s.params := rfl
@[simp] theorem State.drawn_phase : (s.drawn).phase = s.phase := rfl
@[simp] theorem State.drawn_bound : (s.drawn).bound = s.bound := rfl
@[simp] theorem State.drawn_rangeSel : (s.drawn).rangeSel = s.rangeSel := rfl
@[simp] theorem State.drawn_odrSel : (s.drawn).odrSel = s.odrSel := rfl
@[simp] theorem State.drawn_hpfSel : (s.drawn).hpfSel = s.hpfSel := rfl
@[simp] theorem State.drawn_csN : (s.drawn).csN = s.csN := rfl
@[simp] theorem State.drawn_txBuf : (s.drawn).txBuf = s.txBuf := rfl
@[simp] theorem State.drawn_rxBuf : (s.drawn).rxBuf = s.rxBuf := rfl
@[simp] theorem State.drawn_xreq : (s.drawn).xreq = s.xreq := rfl
@[simp] theorem State.drawn_rsp : (s.drawn).rsp = s.rsp := rfl
@[simp] theorem State.drawn_cmdIn : (s.drawn).cmdIn = s.cmdIn := rfl
@[simp] theorem State.drawn_xrspIn : (s.drawn).xrspIn = s.xrspIn := rfl
@[simp] theorem State.drawn_stale : (s.drawn).stale = s.stale := rfl
@[simp] theorem State.drawn_live : (s.drawn).live = s.live := rfl
@[simp] theorem State.drawn_rspReady : (s.drawn).rspReady = s.rspReady := rfl
@[simp] theorem State.drawn_resetIn : (s.drawn).resetIn = s.resetIn := rfl
@[simp] theorem State.drawn_trace : (s.drawn).trace = s.trace := rfl
@[simp] theorem State.drawn_draws : (s.drawn).draws = s.draws + 1 := rfl

@[simp] theorem State.frameDone_params : (s.frameDone).params = s.params := rfl
@[simp] theorem State.frameDone_phase : (s.frameDone).phase = .idle := rfl
@[simp] theorem State.frameDone_bound : (s.frameDone).bound = s.bound := rfl
@[simp] theorem State.frameDone_rangeSel : (s.frameDone).rangeSel = s.rangeSel := rfl
@[simp] theorem State.frameDone_odrSel : (s.frameDone).odrSel = s.odrSel := rfl
@[simp] theorem State.frameDone_hpfSel : (s.frameDone).hpfSel = s.hpfSel := rfl
@[simp] theorem State.frameDone_csN : (s.frameDone).csN = s.csN := rfl
@[simp] theorem State.frameDone_txBuf : (s.frameDone).txBuf = s.txBuf := rfl
@[simp] theorem State.frameDone_rxBuf : (s.frameDone).rxBuf = s.rxBuf := rfl
@[simp] theorem State.frameDone_xreq : (s.frameDone).xreq = s.xreq := rfl
@[simp] theorem State.frameDone_rsp : (s.frameDone).rsp = s.rsp := rfl
@[simp] theorem State.frameDone_cmdIn : (s.frameDone).cmdIn = s.cmdIn := rfl
@[simp] theorem State.frameDone_xrspIn : (s.frameDone).xrspIn = s.xrspIn := rfl
@[simp] theorem State.frameDone_stale : (s.frameDone).stale = s.stale := rfl
@[simp] theorem State.frameDone_live : (s.frameDone).live = s.live := rfl
@[simp] theorem State.frameDone_rspReady : (s.frameDone).rspReady = s.rspReady := rfl
@[simp] theorem State.frameDone_resetIn : (s.frameDone).resetIn = s.resetIn := rfl
@[simp] theorem State.frameDone_trace : (s.frameDone).trace = s.trace := rfl
@[simp] theorem State.frameDone_draws : (s.frameDone).draws = s.draws := rfl

@[simp] theorem State.accept_params (w : Word) (later : List Word) : (s.accept w later).params = s.params := rfl
@[simp] theorem State.accept_phase (w : Word) (later : List Word) : (s.accept w later).phase = s.phase := rfl
@[simp] theorem State.accept_bound (w : Word) (later : List Word) : (s.accept w later).bound = s.bound := rfl
@[simp] theorem State.accept_rangeSel (w : Word) (later : List Word) : (s.accept w later).rangeSel = s.rangeSel := rfl
@[simp] theorem State.accept_odrSel (w : Word) (later : List Word) : (s.accept w later).odrSel = s.odrSel := rfl
@[simp] theorem State.accept_hpfSel (w : Word) (later : List Word) : (s.accept w later).hpfSel = s.hpfSel := rfl
@[simp] theorem State.accept_csN (w : Word) (later : List Word) : (s.accept w later).csN = s.csN := rfl
@[simp] theorem State.accept_txBuf (w : Word) (later : List Word) : (s.accept w later).txBuf = [] := rfl
@[simp] theorem State.accept_rxBuf (w : Word) (later : List Word) : (s.accept w later).rxBuf = [] := rfl
@[simp] theorem State.accept_xreq (w : Word) (later : List Word) : (s.accept w later).xreq = s.xreq := rfl
@[simp] theorem State.accept_rsp (w : Word) (later : List Word) : (s.accept w later).rsp = s.rsp := rfl
@[simp] theorem State.accept_cmdIn (w : Word) (later : List Word) : (s.accept w later).cmdIn = later := rfl
@[simp] theorem State.accept_xrspIn (w : Word) (later : List Word) : (s.accept w later).xrspIn = s.xrspIn := rfl
@[simp] theorem State.accept_stale (w : Word) (later : List Word) : (s.accept w later).stale = s.stale := rfl
@[simp] theorem State.accept_live (w : Word) (later : List Word) : (s.accept w later).live = s.live := rfl
@[simp] theorem State.accept_rspReady (w : Word) (later : List Word) : (s.accept w later).rspReady = s.rspReady := rfl
@[simp] theorem State.accept_resetIn (w : Word) (later : List Word) : (s.accept w later).resetIn = countdown s.resetIn := rfl
@[simp] theorem State.accept_trace (w : Word) (later : List Word) : (s.accept w later).trace = s.trace ++ [.cmd w] := rfl
@[simp] theorem State.accept_draws (w : Word) (later : List Word) : (s.accept w later).draws = s.draws := rfl

@[simp] theorem State.begin_params (i : Instr) : (s.begin i).params = s.params := rfl
@[simp] theorem State.begin_phase (i : Instr) : (s.begin i).phase = .busy (.start i) := rfl
@[simp] theorem State.begin_bound (i : Instr) : (s.begin i).bound = s.bound := rfl
@[simp] theorem State.begin_rangeSel (i : Instr) : (s.begin i).rangeSel = s.rangeSel := rfl
@[simp] theorem State.begin_odrSel (i : Instr) : (s.begin i).odrSel = s.odrSel := rfl
@[simp] theorem State.begin_hpfSel (i : Instr) : (s.begin i).hpfSel = s.hpfSel := rfl
@[simp] theorem State.begin_csN (i : Instr) : (s.begin i).csN = s.csN := rfl
@[simp] theorem State.begin_txBuf (i : Instr) : (s.begin i).txBuf = s.txBuf := rfl
@[simp] theorem State.begin_rxBuf (i : Instr) : (s.begin i).rxBuf = s.rxBuf := rfl
@[simp] theorem State.begin_xreq (i : Instr) : (s.begin i).xreq = s.xreq := rfl
@[simp] theorem State.begin_rsp (i : Instr) : (s.begin i).rsp = s.rsp := rfl
@[simp] theorem State.begin_cmdIn (i : Instr) : (s.begin i).cmdIn = s.cmdIn := rfl
@[simp] theorem State.begin_xrspIn (i : Instr) : (s.begin i).xrspIn = s.xrspIn := rfl
@[simp] theorem State.begin_stale (i : Instr) : (s.begin i).stale = s.stale := rfl
@[simp] theorem State.begin_live (i : Instr) : (s.begin i).live = s.live := rfl
@[simp] theorem State.begin_rspReady (i : Instr) : (s.begin i).rspReady = s.rspReady := rfl
@[simp] theorem State.begin_resetIn (i : Instr) : (s.begin i).resetIn = s.resetIn := rfl
@[simp] theorem State.begin_trace (i : Instr) : (s.begin i).trace = s.trace := rfl
@[simp] theorem State.begin_draws (i : Instr) : (s.begin i).draws = s.draws := rfl

/-! ### More answers -/

@[simp] theorem State.answeredBy_nil : s.answeredBy [] = s := by simp [State.answeredBy]
@[simp] theorem State.answeredBy_xrspIn (ys : List Xrsp) : (s.answeredBy ys).xrspIn = s.xrspIn ++ ys := rfl
@[simp] theorem State.answeredBy_stale (ys : List Xrsp) : (s.answeredBy ys).stale = s.stale := rfl

end Sys2Proof.Machine
end

