-- ==== Sys2Proof/Laws/Ops.lean ====
section
/-! SUPPORT. For each shared operation, once, everything it can do; and what it does when no RESET is coming. -/

namespace Sys2Proof.Machine

/-! ### RESET -/

theorem resetDue_of_none {s : State} (h : s.resetIn = []) : s.resetDue = false := by
  simp [State.resetDue, h]

theorem guardReset_of_none {s : State} (h : s.resetIn = []) (k : State → Result) : guardReset k s = k s := by
  simp [guardReset, resetDue_of_none h]

/-- A guarded operation is RESET, or the operation itself. -/
theorem guardReset_cases (k : State → Result) (s : State) :
    (s.resetDue = true ∧ guardReset k s = .next s.applyReset) ∨ (s.resetDue = false ∧ guardReset k s = k s) := by
  cases h : s.resetDue
  · exact .inr ⟨rfl, by simp [guardReset, h]⟩
  · exact .inl ⟨rfl, by simp [guardReset, h]⟩

@[simp] theorem countdown_nil : countdown [] = [] := rfl

/-! ### The response -/

/-- The handshake takes the offered response, or nothing happens. -/
theorem handOver_cases (s : State) :
    (∃ r, s.rsp = some r ∧ s.rspReady = true ∧ s.handOver = s.taken r) ∨ s.handOver = s := by
  unfold State.handOver
  cases hr : s.rsp with
  | none => exact .inr rfl
  | some r =>
      cases hy : s.rspReady
      · exact .inr (by simp)
      · exact .inl ⟨r, rfl, rfl, by simp⟩

/-- An offered response is cut off by RESET, taken, or kept on offer. -/
theorem deliver_cases (s : State) :
    deliver s = .next s.applyReset ∨ (∃ r, s.rsp = some r ∧ s.rspReady = true ∧ deliver s = .next (s.taken r)) ∨
    deliver s = .next s := by
  unfold deliver
  rcases guardReset_cases (fun s => .next s.handOver) s with ⟨-, h⟩ | ⟨-, h⟩ <;> rw [h]
  · exact .inl rfl
  · rcases handOver_cases s with ⟨r, hr, hy, h⟩ | h <;> rw [h]
    · exact .inr (.inl ⟨r, hr, hy, rfl⟩)
    · exact .inr (.inr rfl)

/-- A command's end is cut off by RESET, taken by the host, or left on offer. -/
theorem respond_cases (r : Response) (s : State) :
    respond r s = .next (s.offer r).applyReset ∨ respond r s = .next ((s.offer r).taken r) ∨
    respond r s = .next (s.offer r) := by
  rcases deliver_cases (s.offer r) with h | ⟨r', hr, -, h⟩ | h
  · exact .inl h
  · simp at hr
    exact .inr (.inl (hr ▸ h))
  · exact .inr (.inr h)

theorem respond_taken {s : State} (h : s.resetIn = []) (hr : s.rspReady = true) (r : Response) :
    respond r s = .next ((s.offer r).taken r) := by
  simp [respond, deliver, guardReset, State.resetDue, State.handOver, h, hr]

theorem raise_eq_respond (r : Response) (s : State) : raise r s = respond r s := rfl

/-- A response computed from the received bytes is given, or its missing byte is the fault. -/
theorem respondWith_cases (r : Except Fault Response) (s : State) :
    (∃ a, r = .ok a ∧ respondWith r s = respond a s) ∨ (∃ f, r = .error f ∧ respondWith r s = .fault f) := by
  cases r with
  | ok a => exact .inl ⟨a, rfl, rfl⟩
  | error f => exact .inr ⟨f, rfl, rfl⟩

@[simp] theorem respondWith_ok (r : Response) (s : State) : respondWith (.ok r) s = respond r s := rfl

/-! ### The frame primitive -/

/-- An outstanding request is answered, or nothing happens. -/
theorem exchange_cases (k : Answer → State → Result) (s : State) :
    exchange k s = .next s ∨
    ∃ q x later, s.xreq = some q ∧ s.live = x :: later ∧
      (exchange k s = .next (s.takeAnswer q x later).applyReset ∨
       exchange k s = k (x.answer q) (s.takeAnswer q x later).closeFrame) := by
  cases hq : s.xreq with
  | none => exact .inl (by simp [exchange, hq])
  | some q =>
      cases hx : s.live with
      | nil => exact .inl (by simp [exchange, hq, hx])
      | cons x later =>
          refine .inr ⟨q, x, later, rfl, rfl, ?_⟩
          simp only [exchange, hq, hx]
          rcases guardReset_cases (fun t => k (x.answer q) t.closeFrame) (s.takeAnswer q x later) with
            ⟨-, h⟩ | ⟨-, h⟩
          · exact .inl h
          · exact .inr h

/-- Waiting for an answer ends in RESET before the answer, RESET before CS(1), the rest of the rule from the closed
frame, or goes on. -/
theorem awaitAnswer_cases (k : Answer → State → Result) (s : State) :
    awaitAnswer k s = .next s.applyReset ∨ awaitAnswer k s = .next s ∨
    ∃ q x later, s.xreq = some q ∧ s.live = x :: later ∧
      (awaitAnswer k s = .next (s.takeAnswer q x later).applyReset ∨
       awaitAnswer k s = k (x.answer q) (s.takeAnswer q x later).closeFrame) := by
  unfold awaitAnswer
  rcases guardReset_cases (exchange k) s with ⟨-, h⟩ | ⟨-, h⟩ <;> rw [h]
  · exact .inl rfl
  · exact .inr (exchange_cases k s)

/-- A frame ends in RESET before CS(0), while the request is outstanding or before CS(1), in a wait, or in the rest
of the rule from the closed frame. -/
theorem sendFrame_cases (kind : Kind) (tx : List Byte) (ret : Ret) (k : Answer → State → Result) (s : State) :
    sendFrame kind tx ret k s = .next s.applyReset ∨
    sendFrame kind tx ret k s = .next (s.openFrame kind tx ret).applyReset ∨
    sendFrame kind tx ret k s = .next (s.openFrame kind tx ret) ∨
    ∃ x later, s.live = x :: later ∧
      (sendFrame kind tx ret k s =
          .next ((s.openFrame kind tx ret).takeAnswer { kind := kind, tx := tx } x later).applyReset ∨
       sendFrame kind tx ret k s = k (x.answer { kind := kind, tx := tx })
          ((s.openFrame kind tx ret).takeAnswer { kind := kind, tx := tx } x later).closeFrame) := by
  unfold sendFrame
  rcases guardReset_cases (fun s => awaitAnswer k (s.openFrame kind tx ret)) s with ⟨-, h⟩ | ⟨-, h⟩
  · exact .inl h
  · rw [h]
    rcases awaitAnswer_cases k (s.openFrame kind tx ret) with h' | h' | ⟨q, x, later, hq, hx, h'⟩
    · exact .inr (.inl h')
    · exact .inr (.inr (.inl h'))
    · simp at hq
      subst hq
      exact .inr (.inr (.inr ⟨x, later, by simpa using hx, h'⟩))

theorem awaitAnswer_answered {s : State} {q : Request} {x : Xrsp} {later : List Xrsp} (h : s.resetIn = [])
    (hq : s.xreq = some q) (hx : s.live = x :: later) (k : Answer → State → Result) :
    awaitAnswer k s = k (x.answer q) (s.takeAnswer q x later).closeFrame := by
  have h' : (s.takeAnswer q x later).resetIn = [] := by simp [h]
  simp only [awaitAnswer, guardReset_of_none h, exchange, hq, hx, guardReset_of_none h']

theorem sendFrame_answered {s : State} {x : Xrsp} {later : List Xrsp} (h : s.resetIn = [])
    (hx : s.live = x :: later) (kind : Kind) (tx : List Byte) (ret : Ret) (k : Answer → State → Result) :
    sendFrame kind tx ret k s = k (x.answer { kind := kind, tx := tx })
      ((s.openFrame kind tx ret).takeAnswer { kind := kind, tx := tx } x later).closeFrame := by
  rw [sendFrame, guardReset_of_none h]
  exact awaitAnswer_answered (by simp [h]) (by simp) (by simpa using hx) k

theorem sendFrame_waits {s : State} (h : s.resetIn = []) (hx : s.live = []) (kind : Kind) (tx : List Byte)
    (ret : Ret) (k : Answer → State → Result) :
    sendFrame kind tx ret k s = .next (s.openFrame kind tx ret) := by
  have h' : (s.openFrame kind tx ret).resetIn = [] := by simp [h]
  have hx' : (s.openFrame kind tx ret).live = [] := hx
  simp [sendFrame, guardReset_of_none h, awaitAnswer, guardReset_of_none h', exchange, hx']

/-! ### The received bytes -/

theorem answer_writeOnly (x : Xrsp) (tx : List Byte) :
    x.answer { kind := .writeOnly, tx := tx } = x.writeAnswer := rfl

theorem answer_duplex (x : Xrsp) (tx : List Byte) :
    x.answer { kind := .duplex, tx := tx } = x.readAnswer tx.length := rfl

theorem bufferByte_of_lt {buf : List Byte} {i : Nat} (h : i < buf.length) : bufferByte buf i = .ok buf[i] := by
  simp [bufferByte, h]

theorem bufferByte_of_le {buf : List Byte} {i : Nat} (h : buf.length ≤ i) : bufferByte buf i = .error .noBufferValue := by
  simp [bufferByte, h]

/-- A read of the received frame never gives anything but its bytes or the fault. -/
theorem bufferByte_cases (buf : List Byte) (i : Nat) :
    (∃ h : i < buf.length, bufferByte buf i = .ok buf[i]) ∨ bufferByte buf i = .error .noBufferValue := by
  rcases Nat.lt_or_ge i buf.length with h | h
  · exact .inl ⟨h, bufferByte_of_lt h⟩
  · exact .inr (bufferByte_of_le h)

/-- Inside the frame, `rx(i)` is the byte that XRSP brought. -/
theorem rx_takeAnswer (s : State) {x : Xrsp} (hok : x.ok = true) (tx : List Byte) (later : List Xrsp) {i : Nat}
    (hi : i < tx.length) (h16 : i < 16) :
    ((s.takeAnswer { kind := .duplex, tx := tx } x later).closeFrame).rx i = .ok x.rx[i] := by
  simp [State.rx, bufferByte, Xrsp.answer, hok, Answer.bytes, hi, h16]

/-- Bytes inside the received frame are read together. -/
theorem rxBytes_of_le (s : State) (n : Nat) : ∀ i, i + n ≤ s.rxBuf.length →
    s.rxBytes i n = .ok ((s.rxBuf.drop i).take n) := by
  induction n with
  | zero => intro i _; rfl
  | succ n ih =>
      intro i h
      have hi : i < s.rxBuf.length := by omega
      rw [State.rxBytes, ih (i + 1) (by omega), State.rx, bufferByte_of_lt hi, List.drop_eq_getElem_cons hi]
      rfl

/-! ### The bound check -/

theorem needBound_cases (k : State → Result) (s : State) :
    (s.bound = true ∧ needBound k s = k s) ∨ (s.bound = false ∧ needBound k s = raise .notBound s) := by
  cases h : s.bound
  · exact .inr ⟨rfl, by simp [needBound, h]⟩
  · exact .inl ⟨rfl, by simp [needBound, h]⟩

/-! ### A step, one lemma for each thing it can find -/

theorem step_due {s : State} (h : s.resetDue = true) : step s = .next s.applyReset := by
  simp [step, fetch, h]

theorem step_idle {s : State} (h : s.resetDue = false) (hp : s.phase = .idle) (hc : s.cmdIn = []) :
    step s = .next s := by
  simp [step, fetch, h, fetchAt, hp, hc]

theorem step_command {s : State} {w : Word} {later : List Word} {i : Instr} (h : s.resetDue = false)
    (hp : s.phase = .idle) (hc : s.cmdIn = w :: later) (hd : decodeWord s.params w = .ok i) :
    step s = exec i ((s.accept w later).begin i) := by
  simp [step, fetch, h, fetchAt, hp, hc, fetchCommand, decode, hd]

theorem step_illegal {s : State} {w : Word} {later : List Word} {e : Reject} (h : s.resetDue = false)
    (hp : s.phase = .idle) (hc : s.cmdIn = w :: later) (hd : decodeWord s.params w = .error e) :
    step s = raise .illegalCommand (s.accept w later) := by
  simp [step, fetch, h, fetchAt, hp, hc, fetchCommand, decode, hd]

theorem step_start {s : State} {i : Instr} (h : s.resetDue = false) (hp : s.phase = .busy (.start i)) :
    step s = exec i s := by
  simp [step, fetch, h, fetchAt, hp]

theorem step_await {s : State} {ret : Ret} (h : s.resetDue = false) (hp : s.phase = .busy (.await ret)) :
    step s = awaitAnswer (resumeAt ret) s := by
  simp [step, fetch, h, fetchAt, hp]

theorem step_respond {s : State} (h : s.resetDue = false) (hp : s.phase = .busy .respond) : step s = deliver s := by
  simp [step, fetch, h, fetchAt, hp]

theorem step_send {s : State} {i : Instr} (h : s.resetDue = false) (hp : s.phase = .busy .send)
    (hd : decodeFrame s.txBuf = .ok i) : step s = exec i s := by
  cases ht : s.txBuf with
  | nil => simp [ht, decodeFrame] at hd
  | cons b bs =>
      rw [ht] at hd
      simp [step, fetch, h, fetchAt, hp, fetchFrame, State.tx, bufferByte, ht, decode, hd]

theorem step_send_error {s : State} {e : Reject} (h : s.resetDue = false) (hp : s.phase = .busy .send)
    (hd : decodeFrame s.txBuf = .error e) :
    step s = if s.txBuf = [] then .fault .noBufferValue else .refused .notAFrame := by
  cases ht : s.txBuf with
  | nil => simp [step, fetch, h, fetchAt, hp, fetchFrame, State.tx, bufferByte, ht]
  | cons b bs =>
      rw [ht] at hd
      simp [step, fetch, h, fetchAt, hp, fetchFrame, State.tx, bufferByte, ht, decode, hd]

end Sys2Proof.Machine
end

