-- ==== Sys2Proof/Laws/Opaque.lean ====
section
/-! SUPPORT. The block does not inspect the transport's error value (40_framer.md R73, 00_scope.md R8): every renaming of the values of P_TERR commutes with every instruction and every step. -/

namespace Sys2Proof.Machine

variable (f : Terr → Terr)

/-! ### Renaming -/

/-- An answer with its error value renamed. -/
def Answer.rename : Answer → Answer
  | .okRx rx => .okRx rx
  | .okDone => .okDone
  | .err e => .err (f e)

/-- XRSP with its error value renamed. -/
def Xrsp.rename (x : Xrsp) : Xrsp := { x with err := f x.err }

/-- A response with its error value renamed. -/
def Response.rename (r : Response) : Response := { r with terr := r.terr.map f }

/-- An event with its error values renamed. -/
def Event.rename : Event → Event
  | .cmd w => .cmd w
  | .cs level => .cs level
  | .xfer kind tx a => .xfer kind tx (a.rename f)
  | .rsp r => .rsp (r.rename f)
  | .reset => .reset

/-- A state with its error values renamed, in the inputs, the pending response and the trace. -/
def State.rename (s : State) : State :=
  { s with
    rsp    := s.rsp.map (Response.rename f)
    xrspIn := s.xrspIn.map (Xrsp.rename f)
    trace  := s.trace.map (Event.rename f) }

/-- What a step answers, with its error values renamed. -/
def renameResult : Result → Result
  | .next s => .next (s.rename f)
  | .fault e => .fault e
  | .refused r => .refused r

/-- An operation that does not inspect error values. -/
def Blind (k : State → Result) : Prop := ∀ s, k (s.rename f) = renameResult f (k s)

/-- The rest of a rule that does not inspect error values. -/
def BlindRest (k : Answer → State → Result) : Prop :=
  ∀ a s, k (a.rename f) (s.rename f) = renameResult f (k a s)

variable {f}

/-! ### The shared operations -/

@[simp] theorem rename_record (e : Event) (s : State) : (s.rename f).record (e.rename f) = (s.record e).rename f := by
  simp [State.rename, State.record]

@[simp] theorem rename_live (s : State) : (s.rename f).live = s.live.map (Xrsp.rename f) := by
  simp [State.rename, State.live, List.map_drop]

theorem rename_answer (x : Xrsp) (q : Request) : (x.rename f).answer q = (x.answer q).rename f := by
  unfold Xrsp.answer Xrsp.rename
  cases x.ok <;> cases q.kind <;> rfl

theorem rename_bytes (a : Answer) : (a.rename f).bytes = a.bytes := by cases a <;> rfl

theorem rename_applyReset (s : State) : (s.rename f).applyReset = s.applyReset.rename f := by
  have h : (s.rename f).leavesLate = s.leavesLate := rfl
  simp only [State.applyReset, h]
  simp [State.rename, Event.rename]

theorem rename_guardReset {k k' : State → Result} {s : State} (h : k' (s.rename f) = renameResult f (k s)) :
    guardReset k' (s.rename f) = renameResult f (guardReset k s) := by
  unfold guardReset
  rw [show (s.rename f).resetDue = s.resetDue from rfl]
  split
  · exact congrArg Host.Outcome.next (rename_applyReset s)
  · exact h

theorem blind_handOver : Blind f fun s => .next s.handOver := by
  intro s
  refine congrArg Host.Outcome.next ?_
  unfold State.handOver
  cases hr : s.rsp with
  | none => simp [State.rename, hr]
  | some r =>
      rw [show (s.rename f).rsp = some (r.rename f) by simp [State.rename, hr],
        show (s.rename f).rspReady = s.rspReady from rfl]
      cases s.rspReady
      · rfl
      · simp [State.rename, State.taken, State.record, Event.rename]

theorem blind_deliver : Blind f deliver := fun s => rename_guardReset (blind_handOver (f := f) s)

theorem blind_respond (r : Response) (s : State) :
    respond (r.rename f) (s.rename f) = renameResult f (respond r s) := by
  rw [respond, show (s.rename f).offer (r.rename f) = (s.offer r).rename f by simp [State.rename, State.offer]]
  exact blind_deliver _

/-- A response without an error value is given as it is. -/
theorem blind_respond_plain {r : Response} (h : r.terr = none) : Blind f (respond r) := by
  intro s
  have : r.rename f = r := by
    obtain ⟨_, _, _, _, _, _, _⟩ := r
    simp_all [Response.rename]
  simpa [this] using blind_respond (f := f) r s

theorem blind_respondWith {r : State → Except Fault Response} (hr : ∀ s, r (s.rename f) = r s)
    (h : ∀ s a, r s = .ok a → a.terr = none) : Blind f fun s => respondWith (r s) s := by
  intro s
  simp only [hr s]
  rcases respondWith_cases (r s) s with ⟨a, ha, -⟩ | ⟨e, he, -⟩
  · simp only [ha, respondWith_ok]
    exact blind_respond_plain (h s a ha) s
  · simp only [he]
    rfl

theorem blind_transportError (e : Terr) (s : State) :
    raise (.transportError (f e)) (s.rename f) = renameResult f (raise (.transportError e) s) :=
  blind_respond (.transportError e) s

theorem blind_awaitAnswer {k : Answer → State → Result} (h : BlindRest f k) : Blind f (awaitAnswer k) := by
  intro s
  refine rename_guardReset ?_
  unfold exchange
  rw [show (s.rename f).xreq = s.xreq from rfl, rename_live]
  cases s.xreq with
  | none => rfl
  | some q =>
      cases s.live with
      | nil => rfl
      | cons x later =>
          simp only [List.map_cons]
          rw [show (s.rename f).takeAnswer q (x.rename f) (later.map (Xrsp.rename f)) =
              (s.takeAnswer q x later).rename f by
            simp [State.rename, State.takeAnswer, State.record, Event.rename, rename_answer, rename_bytes]]
          refine rename_guardReset ?_
          rw [rename_answer, show ((s.takeAnswer q x later).rename f).closeFrame =
              (s.takeAnswer q x later).closeFrame.rename f by simp [State.rename, State.closeFrame, State.record, Event.rename]]
          exact h _ _

theorem blind_sendFrame {k : Answer → State → Result} (h : BlindRest f k) (kind : Kind) (tx : List Byte) (ret : Ret) :
    Blind f (sendFrame kind tx ret k) := by
  intro s
  refine rename_guardReset ?_
  rw [show (s.rename f).openFrame kind tx ret = (s.openFrame kind tx ret).rename f by
    simp [State.rename, State.openFrame, State.record, Event.rename]]
  exact blind_awaitAnswer h _

theorem blind_needBound {k : State → Result} (h : Blind f k) : Blind f (needBound k) := by
  intro s
  unfold needBound
  rw [show (s.rename f).bound = s.bound from rfl]
  split
  · exact h s
  · exact blind_respond_plain rfl s

/-! ### The rules -/

/-- A rule that surfaces its error and otherwise responds with what `k` says. -/
theorem blindRest_of {k : State → Result} {rest : Answer → State → Result} (hk : Blind f k)
    (he : ∀ e s, rest (.err e) s = raise (.transportError e) s) (hr : ∀ b s, rest (.okRx b) s = k s)
    (hd : ∀ s, rest .okDone s = k s) : BlindRest f rest := by
  intro a s
  cases a with
  | okRx b => simpa [Answer.rename, hr] using hk s
  | okDone => simpa [Answer.rename, hd] using hk s
  | err e => simpa [Answer.rename, he] using blind_transportError e s

theorem blind_done : Blind f (respond .done) := blind_respond_plain rfl

theorem blind_byteResponse : Blind f fun s => respondWith (byteResponse s) s := by
  refine blind_respondWith (fun _ => rfl) fun s a h => ?_
  unfold byteResponse at h
  cases hb : s.rx 1 <;> simp [hb, bind, Except.bind, pure, Except.pure] at h
  simp [← h]

theorem blindRest_wr : BlindRest f afterWr := blindRest_of blind_done (fun _ _ => rfl) (fun _ _ => rfl) fun _ => rfl

theorem blindRest_rd : BlindRest f afterRd :=
  blindRest_of blind_byteResponse (fun _ _ => rfl) (fun _ _ => rfl) fun _ => rfl

theorem rename_rxBytes (s : State) (i n : Nat) : (s.rename f).rxBytes i n = s.rxBytes i n := by
  induction n generalizing i with
  | zero => rfl
  | succ n ih => rw [State.rxBytes, State.rxBytes, ih]; rfl

theorem blindRest_brd (len : BitVec 4) : BlindRest f (afterBrd len) := by
  refine blindRest_of (k := fun s => respondWith (burstResponse len s) s) ?_ (fun _ _ => rfl) (fun _ _ => rfl) fun _ => rfl
  refine blind_respondWith (fun s => by simp [burstResponse, rename_rxBytes]) fun s a h => ?_
  unfold burstResponse at h
  cases hb : s.rxBytes 1 len.toNat <;> simp [hb, bind, Except.bind, pure, Except.pure] at h
  simp [← h]

theorem blindRest_initRange (r : BitVec 2) (o : BitVec 4) (h : BitVec 3) : BlindRest f (afterInitRange r o h) :=
  blindRest_of (k := fun s => respond .done (s.latch r o h)) (fun s => blind_done (s.latch r o h)) (fun _ _ => rfl)
    (fun _ _ => rfl) fun _ => rfl

theorem blindRest_initFilter (r : BitVec 2) (o : BitVec 4) (h : BitVec 3) : BlindRest f (afterInitFilter r o h) :=
  blindRest_of (blind_sendFrame (blindRest_initRange r o h) _ _ _) (fun _ _ => rfl) (fun _ _ => rfl) fun _ => rfl

theorem blind_checkId (r : BitVec 2) (o : BitVec 4) (h : BitVec 3) : Blind f (checkId r o h) := by
  intro s
  unfold checkId
  rw [show (s.rename f).rx 1 = s.rx 1 from rfl, show (s.rename f).params = s.params from rfl]
  cases s.rx 1 with
  | error e => rfl
  | ok id =>
      dsimp only
      split
      · exact blind_respond_plain rfl s
      · exact blind_sendFrame (blindRest_initFilter r o h) _ _ _ s

theorem blindRest_initId (r : BitVec 2) (o : BitVec 4) (h : BitVec 3) : BlindRest f (afterInitId r o h) :=
  blindRest_of (blind_checkId r o h) (fun _ _ => rfl) (fun _ _ => rfl) fun _ => rfl

theorem blindRest_start : BlindRest f afterStart := by
  intro a s
  cases a with
  | okRx b => exact blind_done s
  | okDone => exact blind_done s
  | err e =>
      simp only [Answer.rename, afterStart]
      rw [show (s.rename f).params = s.params from rfl]
      split
      · exact blind_transportError e s
      · exact blind_done s

theorem blindRest_getid : BlindRest f afterGetid := by
  intro a s
  cases a with
  | okRx b => exact blind_byteResponse s
  | okDone => exact blind_byteResponse s
  | err e =>
      simp only [Answer.rename, afterGetid]
      rw [show (s.rename f).params = s.params from rfl, show (s.rename f).draws = s.draws from rfl]
      split
      · exact blind_transportError e s
      · exact blind_respond_plain rfl s.drawn

theorem blindRest_temp : BlindRest f afterTemp := by
  refine blindRest_of (k := fun s => respondWith (tempResponse s) s) ?_ (fun _ _ => rfl) (fun _ _ => rfl) fun _ => rfl
  refine blind_respondWith (fun _ => rfl) fun s a h => ?_
  unfold tempResponse at h
  cases h1 : s.rx 1 <;> cases h2 : s.rx 2 <;> simp [h1, h2, bind, Except.bind, pure, Except.pure] at h
  simp [← h]

theorem blindRest_accr : BlindRest f afterAccr := by
  refine blindRest_of (k := fun s => respondWith (accrResponse s) s) ?_ (fun _ _ => rfl) (fun _ _ => rfl) fun _ => rfl
  refine blind_respondWith (fun _ => rfl) fun s a h => ?_
  unfold accrResponse at h
  cases h1 : lane s 1 <;> cases h2 : lane s 4 <;> cases h3 : lane s 7 <;>
    simp [h1, h2, h3, bind, Except.bind, pure, Except.pure] at h
  simp [← h]

theorem blindRest_accn : BlindRest f afterAccn := by
  refine blindRest_of (k := fun s => respondWith (accnResponse s) s) ?_ (fun _ _ => rfl) (fun _ _ => rfl) fun _ => rfl
  refine blind_respondWith (fun _ => rfl) fun s a h => ?_
  unfold accnResponse at h
  cases h1 : lane s 1 <;> cases h2 : lane s 4 <;> cases h3 : lane s 7 <;>
    simp [h1, h2, h3, bind, Except.bind, pure, Except.pure] at h
  simp [← h]

theorem blindRest_alone : BlindRest f afterAlone := fun _ _ => rfl

/-! ### Instructions and steps -/

/-- No instruction inspects an error value. -/
theorem blind_exec (i : Instr) : Blind f (exec i) := by
  cases i with
  | wr addr data => exact blind_sendFrame blindRest_wr _ _ _
  | rd addr => exact blind_sendFrame blindRest_rd _ _ _
  | brd addr len => exact blind_sendFrame (blindRest_brd len) _ _ _
  | init rset rcode oset ocode hset hcode =>
      intro s
      simp only [exec, execInit]
      rw [show (s.rename f).bound = s.bound from rfl, show (s.rename f).params = s.params from rfl]
      split
      · exact blind_respond_plain rfl s
      · exact blind_sendFrame (blindRest_initId _ _ _) _ _ _ s
  | start => exact blind_needBound (blind_sendFrame blindRest_start _ _ _)
  | getid => exact blind_needBound (blind_sendFrame blindRest_getid _ _ _)
  | temp => exact blind_needBound (blind_sendFrame blindRest_temp _ _ _)
  | accr => exact blind_needBound (blind_sendFrame blindRest_accr _ _ _)
  | accn => exact blind_needBound (blind_sendFrame blindRest_accn _ _ _)
  | wrframe addr data => exact blind_sendFrame blindRest_alone _ _ _
  | rdframe addr => exact blind_sendFrame blindRest_alone _ _ _
  | brdframe addr n => exact blind_sendFrame blindRest_alone _ _ _

theorem blindRest_resumeAt (ret : Ret) : BlindRest f (resumeAt ret) := by
  cases ret with
  | wr => exact blindRest_wr
  | rd => exact blindRest_rd
  | brd len => exact blindRest_brd len
  | initId r o h => exact blindRest_initId r o h
  | initFilter r o h => exact blindRest_initFilter r o h
  | initRange r o h => exact blindRest_initRange r o h
  | start => exact blindRest_start
  | getid => exact blindRest_getid
  | temp => exact blindRest_temp
  | accr => exact blindRest_accr
  | accn => exact blindRest_accn
  | alone => exact blindRest_alone

/-- No step inspects an error value: P_TERR is opaque to the block. -/
theorem blind_step : Blind f step := by
  intro s
  cases hd : s.resetDue with
  | true =>
      rw [step_due hd, step_due (s := s.rename f) hd, rename_applyReset]
      rfl
  | false =>
      have hd' : (s.rename f).resetDue = false := hd
      cases hp : s.phase with
      | idle =>
          cases hc : s.cmdIn with
          | nil =>
              rw [step_idle hd hp hc, step_idle hd' hp hc]
              rfl
          | cons w later =>
              have ha : (s.rename f).accept w later = (s.accept w later).rename f := by
                simp [State.rename, State.accept, State.record, Event.rename]
              cases hw : decodeWord s.params w with
              | ok i =>
                  rw [step_command hd hp hc hw, step_command hd' hp hc hw, ha]
                  exact blind_exec i ((s.accept w later).begin i)
              | error e =>
                  rw [step_illegal hd hp hc hw, step_illegal hd' hp hc hw, ha]
                  exact blind_respond_plain rfl _
      | busy pos =>
          cases pos with
          | start i =>
              rw [step_start hd hp, step_start hd' hp]
              exact blind_exec i s
          | send =>
              cases hf : decodeFrame s.txBuf with
              | ok i =>
                  rw [step_send hd hp hf, step_send hd' hp hf]
                  exact blind_exec i s
              | error e =>
                  rw [step_send_error hd hp hf, step_send_error hd' hp hf, show (s.rename f).txBuf = s.txBuf from rfl]
                  split <;> rfl
          | await ret =>
              rw [step_await hd hp, step_await hd' hp]
              exact blind_awaitAnswer (blindRest_resumeAt ret) s
          | respond =>
              rw [step_respond hd hp, step_respond hd' hp]
              exact blind_deliver s

end Sys2Proof.Machine
end

