-- ==== Sys2Proof/Laws/PerInstr.lean ====
section
/-! SUPPORT. Laws stated per instruction: the instructions of a MINIMAL build are instructions of a FULL one (30_encoding.md R66 item 9). -/

namespace Sys2Proof.Laws.MinimalIsFull

/-- What is well-formed in a MINIMAL build is well-formed in the FULL build that has its other parameters. -/
def Statement (i : Instr) : Prop :=
  ∀ p : Params, i.wellFormed { p with variant := .minimal } = true → i.wellFormed { p with variant := .full } = true

theorem wr (addr : Addr) (data : Byte) : Statement (.wr addr data) := fun _ h => h
theorem rd (addr : Addr) : Statement (.rd addr) := fun _ h => h
theorem brd (addr : Addr) (len : BitVec 4) : Statement (.brd addr len) := fun _ h => h

theorem init (rset : Bool) (rcode : BitVec 2) (oset : Bool) (ocode : BitVec 4) (hset : Bool) (hcode : BitVec 3) :
    Statement (.init rset rcode oset ocode hset hcode) := by
  intro p h
  cases hset
  · exact h
  · simp [Instr.wellFormed, hpfFieldOk] at h

theorem start : Statement .start := fun _ h => h
theorem getid : Statement .getid := fun _ h => h
theorem temp : Statement .temp := fun _ h => h
theorem accr : Statement .accr := fun _ h => h
theorem accn : Statement .accn := fun _ h => h
theorem wrframe (addr : Addr) (data : Byte) : Statement (.wrframe addr data) := fun _ h => h
theorem rdframe (addr : Addr) : Statement (.rdframe addr) := fun _ h => h
theorem brdframe (addr : Addr) (n : BitVec 4) : Statement (.brdframe addr n) := fun _ h => h

end Sys2Proof.Laws.MinimalIsFull
end

