-- ==== Sys2Proof/Tests/Slice0.lean ====
section
/-! SUPPORT. Tests: ill-formed terms, words and frames written out from the spec, one step per case from the spec's vectors, and a witness for the hypotheses of every statement. -/

namespace Sys2Proof.Machine.Tests

/-! ### Helpers -/

/-- The one value of P_TERR that every build has. -/
def someTerr : Terr := { label := 0, legal := .inl rfl }

/-- An answer `ok(rx)` that begins with these bytes. -/
def okOf (bytes : List Byte) : Xrsp :=
  { ok := true, rx := Vector.ofFn fun i => bytes.getD i.val 0, err := someTerr }

/-- An answer `err(e)`. -/
def errOf (e : Terr) : Xrsp := { ok := false, rx := Vector.replicate 16 0, err := e }

/-- An unbound block at rest with these answers to come. -/
def fresh (answers : List Xrsp) : State := { State.reset with xrspIn := answers }

/-- A bound block at rest with these answers to come. -/
def boundTo (code : BitVec 2) (answers : List Xrsp) : State :=
  { State.reset with bound := true, rangeSel := code, xrspIn := answers }

/-- The BASELINE build. -/
def baseline (s : State) : State := { s with params := { Params.reference with policy := .baseline } }

/-- The next state, or the reset state where there is none. -/
def next (o : Host.Outcome State Fault Refusal) : State :=
  match o with
  | .next s => s
  | .fault _ => State.reset
  | .refused _ => State.reset

/-- What a block would do with a frame in TXBUF. -/
def sending (bytes : List Byte) (answers : List Xrsp) : State :=
  { fresh answers with phase := .busy .send, txBuf := bytes }

/-- INIT range=±4g odr=0 hpf=3 (30_encoding.md R67). -/
def initExample : Instr := .init true 0b10 true 0 true 3

/-! ### Ill-formed terms: one for each check of WellFormed -/

theorem test_wf_burst_zero : (Instr.brd 0x08 0).wellFormed .reference = false := by decide
theorem test_wf_burst_over_max : (Instr.brd 0x08 10).wellFormed { Params.reference with maxBurst := 9 } = false := by decide
theorem test_wf_range_none : (Instr.init true 0 false 0 false 0).wellFormed .reference = false := by decide
theorem test_wf_range_unset : (Instr.init false 1 false 0 false 0).wellFormed .reference = false := by decide
theorem test_wf_odr_eleven : (Instr.init false 0 true 11 false 0).wellFormed .reference = false := by decide
theorem test_wf_odr_unset : (Instr.init false 0 false 3 false 0).wellFormed .reference = false := by decide
theorem test_wf_hpf_seven : (Instr.init false 0 false 0 true 7).wellFormed .reference = false := by decide
theorem test_wf_hpf_unset : (Instr.init false 0 false 0 false 4).wellFormed .reference = false := by decide
theorem test_wf_hpf_minimal : (Instr.init false 0 false 0 true 0).wellFormed { Params.reference with variant := .minimal } = false := by decide
theorem test_wf_burst_frame_one : (Instr.brdframe 0x08 1).wellFormed .reference = false := by decide
theorem test_wf_burst_frame_zero : (Instr.brdframe 0x08 0).wellFormed .reference = false := by decide

/-! ### Every constructor's decoding, from words and frames of the spec (30_encoding.md R62 to R67; 95_test_vectors.md
V1, V2) -/

/-- 0001 00000 0101101 00000000 0000 0000. -/
theorem test_decode_wr : decodeWord .reference 0b00010000001011010000000000000000 = .ok (.wr 0x2D 0x00) := by decide
/-- 0010 00000 0000010 and 16 zeros. -/
theorem test_decode_rd : decodeWord .reference 0b00100000000000100000000000000000 = .ok (.rd 0x02) := by decide
/-- 0011 00000 0001000 00000000 0000 1001. -/
theorem test_decode_brd : decodeWord .reference 0b00110000000010000000000000001001 = .ok (.brd 0x08 9) := by decide
/-- 0100 0000 1 00000 10 1 000 0000 1 0000 011. -/
theorem test_decode_init : decodeWord .reference 0b01000000100000101000000010000011 = .ok initExample := by decide
theorem test_decode_start : decodeWord { Params.reference with variant := .minimal } 0b01010000000000000000000000000000 = .ok .start := by decide
theorem test_decode_getid : decodeWord .reference 0b01100000000000000000000000000000 = .ok .getid := by decide
theorem test_decode_temp : decodeWord .reference 0b01110000000000000000000000000000 = .ok .temp := by decide
theorem test_decode_accr : decodeWord .reference 0b10000000000000000000000000000000 = .ok .accr := by decide
theorem test_decode_accn : decodeWord .reference 0b10010000000000000000000000000000 = .ok .accn := by decide
/-- Address byte 0101101 0, value 00000011. -/
theorem test_decode_wrframe : decodeFrame [0b01011000, 0b00000011] = .ok (.wrframe 0x2C 0x03) := by decide
/-- Address byte 0000010 1, one placeholder. -/
theorem test_decode_rdframe : decodeFrame [0b00000101, 0b00000000] = .ok (.rdframe 0x02) := by decide
/-- Address byte 0000110 1, two placeholders. -/
theorem test_decode_brdframe : decodeFrame [0b00001101, 0b00000000, 0b00000000] = .ok (.brdframe 0x06 2) := by decide

/-- 95_test_vectors.md V2, one word for each item of R66. -/
theorem test_decode_refusals :
    decodeWord .reference 0xA0000000 = .error .reservedOpcode ∧ decodeWord .reference 0x10800000 = .error .reservedBit ∧
    decodeWord .reference 0x20020100 = .error .unusedField ∧ decodeWord .reference 0x30080000 = .error .badLength ∧
    decodeWord .reference 0x40800000 = .error .rangeNone ∧ decodeWord .reference 0x40008B00 = .error .odrOverTen ∧
    decodeWord .reference 0x40000087 = .error .hpfSeven ∧ decodeWord .reference 0x40010000 = .error .codeWithoutSet ∧
    decodeWord { Params.reference with variant := .minimal } 0x40000080 = .error .hpfInMinimal ∧ decodeWord .reference 0x40FFFFFF = .error .reservedBit ∧
    decodeWord .reference 0x58000000 = .error .reservedBit := by decide

/-- A write frame of three bytes, a read frame with a byte that is no placeholder, a lone address byte, no byte. -/
theorem test_decode_not_frames :
    decodeFrame [0x5A, 0x00, 0x00] = .error .notAFrame ∧ decodeFrame [0x05, 0x01] = .error .notAFrame ∧
    decodeFrame [0x05] = .error .notAFrame ∧ decodeFrame [] = .error .notAFrame := by decide

/-- The table's rows as the host numbers them: a 32-bit word, and a 16-bit frame with the address byte on top. -/
theorem test_decode_table_words :
    decodeTableWord 32 0x40828083 = some initExample ∧ decodeTableWord 16 0x5A00 = some (.wrframe 0x2D 0) ∧
    decodeTableWord 16 0x0500 = some (.rdframe 0x02) ∧ decodeTableWord 24 0x0D0000 = some (.brdframe 0x06 2) := by decide

/-! ### The assembler (30_encoding.md R67, its three examples) -/

theorem test_assemble_wr : (assemble "WR POWER_CTL, 0").map encode = some (.word 0x102D0000) := by decide
theorem test_assemble_brd : (assemble "BRD XDATA3, 9").map encode = some (.word 0x30080009) := by decide
theorem test_assemble_init : (assemble "INIT range=±4g odr=0 hpf=3").map encode = some (.word 0x40828083) := by decide
theorem test_assemble_numbers :
    assemble "WR 0x2C, 0b11" = some (.wr 0x2C 3) ∧ assemble "INIT range=8g" = some (.init true 0b11 false 0 false 0) ∧
    assemble "BRD XDATA3, 16" = none ∧ assemble "RD 128" = none := by decide

/-! ### One step of each instruction (95_test_vectors.md V1, V4, V5, V9) -/

theorem test_wr_identical_frames :
    (next (exec (.wr 0x2D 0x00) (fresh [okOf []]))).trace =
      [.cs .low, .xfer .writeOnly [0x5A, 0x00] .okDone, .cs .high, .rsp { status := .ok }] := by decide
theorem test_wr_error_closes_bracket (e : Terr) :
    (next (exec (.wr 0x7F 0xFF) (fresh [errOf e]))).trace =
      [.cs .low, .xfer .writeOnly [0xFE, 0xFF] (.err e), .cs .high,
       .rsp { status := .transportError, terr := some e }] := rfl
theorem test_rd_takes_second_byte :
    (next (exec (.rd 0x02) (fresh [okOf [0xAA, 0xED]]))).trace =
      [.cs .low, .xfer .duplex [0x05, 0x00] (.okRx [0xAA, 0xED]), .cs .high,
       .rsp { status := .ok, d0 := some 0x000000ED }] := by decide
theorem test_rd_top_address (e : Terr) :
    (next (exec (.rd 0x7F) (fresh [errOf e]))).trace.getLast? =
      some (.rsp { status := .transportError, terr := some e }) := rfl
theorem test_brd_two_bytes :
    (next (exec (.brd 0x06 2) (fresh [okOf [0x00, 0x01, 0x23]]))).trace =
      [.cs .low, .xfer .duplex [0x0D, 0x00, 0x00] (.okRx [0x00, 0x01, 0x23]), .cs .high,
       .rsp { status := .ok, len := some 2, bytes := [0x01, 0x23] }] := by decide
theorem test_brd_one_byte_not_in_d0 :
    (next (exec (.brd 0x02 1) (fresh [okOf [0x00, 0xED]]))).trace.getLast? =
      some (.rsp { status := .ok, len := some 1, bytes := [0xED] }) := by decide
/-- The example of 41_driver_ops.md R75. -/
theorem test_init_example :
    let t := next (exec initExample (fresh [okOf [0x00, 0xED], okOf [], okOf []]))
    t.trace = bracket .duplex [0x05, 0x00] (.okRx [0x00, 0xED]) ++ bracket .writeOnly [0x50, 0x30] .okDone ++
        bracket .writeOnly [0x58, 0x02] .okDone ++ [.rsp { status := .ok }] ∧
      t.settings = (true, 0b10, 0, 3) := by decide
/-- 95_test_vectors.md P2, HARDENED. -/
theorem test_init_wrong_device :
    let t := next (exec (.init false 0 false 0 false 0) (fresh [okOf [0x00, 0xAD], okOf [], okOf []]))
    t.trace = bracket .duplex [0x05, 0x00] (.okRx [0x00, 0xAD]) ++
        [.rsp { status := .unexpectedDeviceId, d0 := some 0x000000AD }] ∧
      t.settings = (false, 0b01, 10, 0) := by decide
/-- 95_test_vectors.md P6, BASELINE. -/
theorem test_start_baseline_swallows :
    (next (exec .start (baseline (boundTo 0b01 [errOf someTerr])))).trace.getLast? = some (.rsp { status := .ok }) := by decide
theorem test_start_unbound :
    (next (exec .start (fresh [okOf []]))).trace = [.rsp { status := .notBound }] := by decide
theorem test_getid_does_not_check :
    (next (exec .getid (boundTo 0b01 [okOf [0x00, 0xAD]]))).trace.getLast? =
      some (.rsp { status := .ok, d0 := some 0x000000AD }) := by decide
theorem test_getid_baseline_draws :
    (next (exec .getid (baseline (boundTo 0b01 [errOf someTerr])))).draws = 1 := by decide
theorem test_temp_low_nibble :
    (next (exec .temp (boundTo 0b01 [okOf [0x00, 0xF1, 0x23]]))).trace.getLast? =
      some (.rsp { status := .ok, d0 := some 0x00000123 }) := by decide
theorem test_temp_error (e : Terr) :
    (next (exec .temp (baseline (boundTo 0b01 [errOf e])))).trace.getLast? =
      some (.rsp { status := .transportError, terr := some e }) := rfl
/-- The burst-offset check of 95_test_vectors.md V9: rx(0) is no data. -/
theorem test_accr_burst_offset :
    (next (exec .accr (boundTo 0b01 [okOf [0x7F, 0x00, 0x00, 0x10, 0xFF, 0xFF, 0xF0, 0x7F, 0xFF, 0xF0]]))).trace.getLast? =
      some (.rsp { status := .ok, d0 := some 0x00000001, d1 := some 0xFFFFFFFF, d2 := some 0x0007FFFF }) := by decide
theorem test_accr_second_vector :
    (next (exec .accr (boundTo 0b01 [okOf [0x00, 0x80, 0x00, 0x00, 0x12, 0x34, 0x56, 0x87, 0x65, 0x43]]))).trace.getLast? =
      some (.rsp { status := .ok, d0 := some 0xFFF80000, d1 := some 0x00012345, d2 := some 0xFFF87654 }) := by decide
theorem test_accn_four_g :
    (next (exec .accn (boundTo 0b10 [okOf [0x00, 0x7F, 0xFF, 0xF0, 0x80, 0x00, 0x00, 0x00, 0x00, 0x00]]))).trace.getLast? =
      some (.rsp { status := .ok, d0 := some 0x4083126F, d1 := some 0xC083127F, d2 := some 0x00000000 }) := by decide
theorem test_accn_two_g :
    (next (exec .accn (boundTo 0b01 [okOf [0x00, 0x40, 0x00, 0x00, 0xC0, 0x00, 0x00, 0x18, 0x6A, 0x00]]))).trace.getLast? =
      some (.rsp { status := .ok, d0 := some 0x3F83127F, d1 := some 0xBF83127F, d2 := some 0x3EC80019 }) := by decide
theorem test_wrframe_alone :
    (next (step (sending [0x50, 0x0A] [okOf []]))).trace =
      [.cs .low, .xfer .writeOnly [0x50, 0x0A] .okDone, .cs .high] := by decide
theorem test_rdframe_alone :
    (next (step (sending [0x05, 0x00] [okOf [0xAA, 0xED]]))).rxBuf = [0xAA, 0xED] := by decide
theorem test_brdframe_alone :
    (next (step (sending [0x0D, 0x00, 0x00] [okOf [0x00, 0x01, 0x23]]))).rxBuf = [0x00, 0x01, 0x23] := by decide

/-! ### The scaler and the sign extender (95_test_vectors.md V6, V8) -/

theorem test_scale_table :
    scale 1 0b01 = 0x3683127F ∧ scale (-1) 0b11 = 0xB783127F ∧ scale 74565 0b10 = 0x3F15215B ∧
    scale (-493996) 0b11 = 0xC0F6FF9C ∧ scale 100000 0b01 = 0x3EC80019 ∧ scale (-524288) 0b11 = 0xC103127F := by decide
theorem test_divide_table :
    divRNE (f32OfI32 74565) d32 = 0x3E11A292 ∧ divRNE (f32OfI32 (-493996)) d32 = 0xBF71359E ∧
    divRNE (f32OfI32 524287) d32 = 0x3F800000 := by decide
theorem test_sext20_table :
    sext20 0x12 0x34 0x56 = 0x00012345 ∧ sext20 0x87 0x65 0x43 = 0xFFF87654 ∧ sext20 0x00 0x00 0x1F = 1 := by decide
/-- IEEE 754 corners that no sample reaches: ties to even, a subnormal, overflow, 1/0. -/
theorem test_float_corners :
    f32OfI32 0x01000001 = 0x4B800000 ∧ f32OfI32 0x01000003 = 0x4B800002 ∧
    divRNE 0x00800000 0x40000000 = 0x00400000 ∧ mulRNE 0x7F7FFFFF 0x40000000 = 0x7F800000 ∧
    divRNE 0x3F800000 0x80000000 = 0xFF800000 := by decide

/-! ### Steps: acceptance, refusal, waiting, resuming, RESET -/

theorem test_step_command :
    (next (step { boundTo 0b01 [okOf []] with cmdIn := [0x50000000] })).trace =
      [.cmd 0x50000000, .cs .low, .xfer .writeOnly [0x5A, 0x00] .okDone, .cs .high, .rsp { status := .ok }] := by decide
theorem test_step_illegal :
    (next (step { fresh [okOf []] with cmdIn := [0x00000000] })).trace =
      [.cmd 0x00000000, .rsp { status := .illegalCommand }] := by decide
theorem test_fetch_word_runs :
    (next (step (State.reset.withFetchWord 32 0x20020000))).phase = .busy (.await .rd) ∧
    (next (step (State.reset.withFetchWord 16 0x5A00))).txBuf = [0x5A, 0x00] := by decide
/-- BRD of 10 bytes in a build whose P_MAX_BURST is 9 (30_encoding.md R66 item 4). -/
theorem test_step_burst_over_max :
    (next (step { fresh [okOf []] with
      params := { Params.reference with maxBurst := 9 }, cmdIn := [0x3008000A] })).trace =
      [.cmd 0x3008000A, .rsp { status := .illegalCommand }] := by decide
/-- 95_test_vectors.md V10, mid-frame: CMD(80000000)·CS(0)·RESET. -/
theorem test_reset_mid_frame :
    let t := next (step { boundTo 0b01 [okOf []] with cmdIn := [0x80000000], resetIn := [{ after := 2, late := true }] })
    t.trace = [.cmd 0x80000000, .cs .low, .reset] ∧ t.csN = .high ∧ t.bound = false ∧ t.live = [] := by decide
/-- The answer to the transfer that RESET cut short comes afterwards, before the next one's: it is discarded. -/
theorem test_late_answer_discarded :
    let t := next (step { boundTo 0b01 [] with cmdIn := [0x80000000], resetIn := [{ after := 2, late := true }] })
    let u := next (step { t.answeredBy [okOf [0x00, 0x11], okOf [0x00, 0xED]] with cmdIn := [0x20020000] })
    u.trace.getLast? = some (.rsp { status := .ok, d0 := some 0x000000ED }) ∧ u.stale = 0 := by decide
/-- The same where the transport gives up the transfer that was cut short. -/
theorem test_no_late_answer :
    let t := next (step { boundTo 0b01 [] with cmdIn := [0x80000000], resetIn := [{ after := 2, late := false }] })
    let u := next (step { t.answeredBy [okOf [0x00, 0xED]] with cmdIn := [0x20020000] })
    u.trace.getLast? = some (.rsp { status := .ok, d0 := some 0x000000ED }) := by decide
/-- 95_test_vectors.md V10, mid-INIT: after the CS(1) of the FILTER frame. -/
theorem test_reset_mid_init :
    let t := next (step { fresh [okOf [0x00, 0xED], okOf [], okOf []] with cmdIn := [0x40830000], resetIn := [{ after := 7, late := true }] })
    t.trace = [.cmd 0x40830000] ++ bracket .duplex [0x05, 0x00] (.okRx [0x00, 0xED]) ++
        bracket .writeOnly [0x50, 0x0A] .okDone ++ [.reset] ∧
      t.settings = (false, 0b01, 10, 0) := by decide

/-! ### Witnesses: states and operands that meet the hypotheses of the statements -/

theorem witness_well_formed : initExample.wellFormed .reference = true := by decide
theorem witness_assembled : assemble "START" = some .start := by decide
theorem witness_spellings :
    SpellsAddr "POWER_CTL".toList 0x2D ∧ SpellsAddr "0x7f".toList 0x7F ∧ Spells "0b11111111".toList 255 ∧
      Spells "10".toList 10 ∧ SpellsRange "±4g".toList 0b10 :=
  ⟨.inr ⟨"POWER_CTL", by decide, rfl⟩, .inl (.inr (.inl (by decide))), .inr (.inr (by decide)), .inl (by decide),
    .inr (.inl ⟨rfl, .inl rfl⟩)⟩
theorem witness_conversion : (16777216 : Word).toInt.natAbs ≤ 2 ^ 24 := by decide
theorem witness_rounding : 0 < 3 ∧ roundBits 1 3 < f32InfBits := by decide
/-- 2^24 + 1 lies halfway between two patterns. -/
theorem witness_rounding_tie :
    roundBits 16777217 1 < f32InfBits ∧ 0x4B800001 < f32InfBits ∧ 0x4B800001 ≠ roundBits 16777217 1 ∧
      |((16777217 : Nat) : ℚ) / (1 : Nat) - f32Value (BitVec.ofNat 32 (roundBits 16777217 1))| =
        |((16777217 : Nat) : ℚ) / (1 : Nat) - f32Value (BitVec.ofNat 32 0x4B800001)| := by
  have h : roundBits 16777217 1 = 0x4B800000 := by decide
  refine ⟨by decide, by decide, by decide, ?_⟩
  rw [h]
  have h1 : f32Value (BitVec.ofNat 32 0x4B800000) = 16777216 := by
    rw [f32Value, if_neg (by decide)]
    simp [f32Sig, f32Scale, f32Exp, f32Frac]; norm_num
  have h2 : f32Value (BitVec.ofNat 32 0x4B800001) = 16777218 := by
    rw [f32Value, if_neg (by decide)]
    simp [f32Sig, f32Scale, f32Exp, f32Frac]; norm_num
  rw [h1, h2]; norm_num
theorem witness_finite_operands :
    f32Exp d32 ≠ 255 ∧ f32Exp (fs32 0b01) ≠ 255 ∧ f32IsZero (fs32 0b01) = false := by decide
theorem witness_scale_bottom : -524288 ≤ (-524288 : Word).toInt ∧ (-524288 : Word).toInt ≤ 524287 ∧
    (-524288 : Word) ≠ 0 ∧ (0b11 : BitVec 2) ≠ 0 := by decide
theorem witness_scale_odd : -524287 ≤ (524287 : Word).toInt ∧ (524287 : Word).toInt ≤ 524287 ∧ (524287 : Word) ≠ 0 := by
  decide
theorem witness_scale_order : -524288 ≤ (-1 : Word).toInt ∧ (-1 : Word).toInt ≤ (1 : Word).toInt ∧
    (1 : Word).toInt ≤ 524287 ∧ (0b10 : BitVec 2) ≠ 0 := by decide
theorem witness_sext20_value : (-524288 : Int) ≤ -524288 ∧ (-524288 : Int) ≤ 524287 := by decide
theorem witness_reset_due :
    let s := { boundTo 0b11 [] with resetIn := [{ after := 0, late := true }], cmdIn := ([] : List Word) }
    s.resetIn = { after := 0, late := true } :: [] ∧ s.cmdIn = [] := by decide
theorem witness_reset_in_command :
    let s := { boundTo 0b01 [okOf []] with resetIn := [{ after := 1, late := true }] }
    exec .accr s = .next (next (exec .accr s)) ∧
      (next (exec .accr s)).trace = s.trace ++ [.cs .low] ++ [.reset] := ⟨rfl, by decide⟩
/-- A RESET that lands in a resumed command, after the answer of a transfer and before CS(1). -/
theorem witness_reset_resumed :
    let s := { next (exec .accr (boundTo 0b01 [])) with
      xrspIn := [okOf []], resetIn := [{ after := 1, late := true }] }
    s.channelsOk = true ∧ (next (step s)).trace =
      s.trace ++ [.xfer .duplex (burstFrame 0x08 9) (.okRx (List.replicate 10 0))] ++ [.reset] := by decide
/-- A RESET that cuts an awaited transfer short. -/
theorem witness_reset_outstanding :
    let s := { next (exec .accr (boundTo 0b01 [])) with resetIn := [{ after := 0, late := true }] }
    s.channelsOk = true ∧ s.openAfter [] = true ∧ (next (step s)).trace = s.trace ++ [] ++ [.reset] ∧
      (next (step s)).stale = 1 := by decide
theorem witness_step_command :
    let s := { State.reset with cmdIn := [(0x50000000 : Word)] }
    s.phase = .idle ∧ s.resetIn = [] ∧ s.cmdIn = 0x50000000 :: [] ∧
      decodeWord s.params 0x50000000 = .ok .start := by decide
theorem witness_step_frame :
    let s := sending [0x05, 0x00] []
    s.phase = .busy .send ∧ s.resetIn = [] ∧ decodeFrame s.txBuf = .ok (.rdframe 0x02) := by decide
theorem witness_illegal_word :
    let s := { State.reset with cmdIn := [(0x00000000 : Word)] }
    s.phase = .idle ∧ s.Calm ∧ s.cmdIn = 0x00000000 :: [] ∧ IllegalWord s.params 0x00000000 := by
  refine ⟨by decide, by decide, by decide, ?_⟩
  simp [IllegalWord]
theorem witness_legal_word : ¬ IllegalWord .reference 0x50000000 := by
  simp [IllegalWord]
theorem witness_wait_idle : State.reset.resetIn = [] ∧ State.reset.phase = .idle ∧ State.reset.cmdIn = [] := by decide
theorem witness_wait_transport :
    let q : Request := { kind := .duplex, tx := [0x05, 0x00] }
    let s := { State.reset with phase := .busy (.await .rd), xreq := some q }
    s.resetIn = [] ∧ s.phase = .busy (.await .rd) ∧ s.xreq = some q ∧ s.live = [] := by decide
theorem witness_wait_host :
    let s := { State.reset with phase := .busy .respond, rsp := some Response.done, rspReady := false }
    s.resetIn = [] ∧ s.phase = .busy .respond ∧ s.rspReady = false := by decide
theorem witness_resume :
    let q : Request := { kind := .duplex, tx := [0x05, 0x00] }
    let s := { fresh [okOf [0x00, 0xED]] with phase := .busy (.await .rd), xreq := some q }
    s.resetIn = [] ∧ s.phase = .busy (.await .rd) ∧ s.xreq = some q ∧ s.live = okOf [0x00, 0xED] :: [] := by decide
theorem witness_handshake :
    let s := { State.reset with phase := .busy .respond, rsp := some Response.done }
    s.Calm ∧ s.phase = .busy .respond ∧ s.rsp = some Response.done := by decide
/-- A host that is not ready: WR ends with its response on offer. -/
theorem witness_not_ready :
    let s := fresh [okOf []]
    exec (.wr 0x2D 0x00) { s with rspReady := false } = .next (next (exec (.wr 0x2D 0x00) { s with rspReady := false })) ∧
      (next (exec (.wr 0x2D 0x00) { s with rspReady := false })).phase = .busy .respond := ⟨rfl, by decide⟩
/-- INIT that waits at its RANGE frame. -/
theorem witness_waits_in_init :
    let s := fresh [okOf [0x00, 0xED], okOf []]
    s.resetIn = [] ∧ s.bound = false ∧ s.live = [okOf [0x00, 0xED], okOf []] ∧ (okOf [0x00, 0xED]).ok = true ∧
      (okOf [0x00, 0xED]).rx[1] = 0xED ∧
      (next (exec initExample s)).phase = .busy (.await (.initRange 0b10 0 3)) := by decide
theorem witness_raw_command :
    (fresh [okOf [0x00, 0xED]]).Calm ∧ (fresh [okOf [0x00, 0xED]]).live = okOf [0x00, 0xED] :: [] ∧
      (15 : BitVec 4) ≠ 0 ∧ (15 : BitVec 4).toNat ≤ Params.reference.maxBurst.toNat := by decide
theorem witness_minimal_build :
    ({ State.reset with params := { Params.reference with variant := .minimal } } : State).params.variant = .minimal := by
  decide
theorem witness_init_succeeds :
    let s := fresh [okOf [0x00, 0xED], okOf [], okOf []]
    s.Calm ∧ s.bound = false ∧ s.live = okOf [0x00, 0xED] :: okOf [] :: okOf [] :: [] ∧
      (okOf [0x00, 0xED]).ok = true ∧ (okOf []).ok = true ∧ (okOf [0x00, 0xED]).rx[1] = 0xED ∧
      initExample.wellFormed s.params = true := by decide
theorem witness_init_baseline :
    let s := baseline (fresh [okOf [0x00, 0x00], okOf [], okOf []])
    s.Calm ∧ s.bound = false ∧ s.params.policy = .baseline ∧ initExample.wellFormed s.params = true := by decide
theorem witness_init_first_error :
    let s := fresh [errOf someTerr]
    s.Calm ∧ s.bound = false ∧ s.live = errOf someTerr :: [] ∧ (errOf someTerr).ok = false := by decide
theorem witness_init_second_error :
    let s := fresh [okOf [0x00, 0xED], errOf someTerr]
    s.Calm ∧ s.bound = false ∧ s.live = okOf [0x00, 0xED] :: errOf someTerr :: [] ∧ (okOf [0x00, 0xED]).ok = true ∧
      (okOf [0x00, 0xED]).rx[1] = 0xED ∧ (errOf someTerr).ok = false := by decide
theorem witness_init_third_error :
    let s := fresh [okOf [0x00, 0xED], okOf [], errOf someTerr]
    s.Calm ∧ s.bound = false ∧ s.live = okOf [0x00, 0xED] :: okOf [] :: errOf someTerr :: [] ∧ (okOf []).ok = true ∧ (errOf someTerr).ok = false := by decide
theorem witness_wrong_identity_hardened :
    let s := fresh [okOf [0x00, 0xAD]]
    s.Calm ∧ s.bound = false ∧ s.live = okOf [0x00, 0xAD] :: [] ∧ (okOf [0x00, 0xAD]).ok = true ∧
      (okOf [0x00, 0xAD]).rx[1] ≠ 0xED ∧ s.params.policy = .hardened := by decide
theorem witness_wrong_identity_baseline :
    let s := baseline (fresh [okOf [0x00, 0xAD]])
    s.Calm ∧ s.bound = false ∧ s.live = okOf [0x00, 0xAD] :: [] ∧ s.params.policy = .baseline := by decide
theorem witness_unbound : (fresh []).Calm ∧ (fresh []).bound = false := by decide
theorem witness_bound : (boundTo 0b01 []).Calm ∧ (boundTo 0b01 []).bound = true := by decide
theorem witness_bound_answered :
    let s := boundTo 0b11 [okOf [0x00, 0xED]]
    s.Calm ∧ s.bound = true ∧ s.live = okOf [0x00, 0xED] :: [] ∧ (okOf [0x00, 0xED]).ok = true := by decide
theorem witness_bound_error_hardened :
    let s := boundTo 0b11 [errOf someTerr]
    s.Calm ∧ s.bound = true ∧ s.live = errOf someTerr :: [] ∧ (errOf someTerr).ok = false ∧ s.params.policy = .hardened := by decide
theorem witness_bound_error_baseline :
    let s := baseline (boundTo 0b11 [errOf someTerr])
    s.Calm ∧ s.bound = true ∧ s.live = errOf someTerr :: [] ∧ (errOf someTerr).ok = false ∧ s.params.policy = .baseline := by decide
theorem witness_frame_alone :
    let s := sending [0x5A, 0x00] [okOf []]
    s.resetIn = [] ∧ s.phase = .busy .send ∧ s.live = okOf [] :: [] := by decide
theorem witness_frame_idle :
    (fresh [okOf []]).resetIn = [] ∧ (fresh [okOf []]).phase = .idle ∧ (fresh [okOf []]).live = okOf [] :: [] := by
  decide
theorem witness_unanswered :
    (boundTo 0b01 []).resetIn = [] ∧ (boundTo 0b01 []).live = [] ∧ (fresh []).bound = false := by decide
theorem witness_not_init :
    (Instr.start).isCommand = true ∧ Instr.start ≠ initExample ∧
      ∃ t, exec .start (fresh []) = .next t := ⟨by decide, by decide, _, rfl⟩
theorem witness_invariants_busy :
    let s := next (exec .accr (boundTo 0b01 []))
    s.settingsOk = true ∧ s.channelsOk = true ∧ ∃ t, step s = .next t := ⟨by decide, by decide, _, rfl⟩
theorem witness_trace_busy :
    let s := next (step { boundTo 0b01 [] with cmdIn := [0x80000000] })
    s.traceOk = true ∧ s.framesOk = true ∧ ∃ t, step s = .next t := ⟨by decide, by decide, _, rfl⟩
theorem witness_bound_step :
    (boundTo 0b01 []).settingsOk = true ∧ (boundTo 0b01 []).bound = true ∧ ∃ t, step (boundTo 0b01 []) = .next t :=
  ⟨by decide, by decide, _, rfl⟩
theorem witness_binding_step :
    let s := { fresh [okOf [0x00, 0xED], okOf [], okOf []] with cmdIn := [(0x40000000 : Word)] }
    s.bound = false ∧ (next (step s)).bound = true := by decide
theorem witness_unbinding_step :
    let s := { boundTo 0b01 [] with resetIn := [{ after := 0, late := false }] }
    s.bound = true ∧ (next (step s)).bound = false := by decide
theorem witness_accepting_step :
    let s := { State.reset with cmdIn := [(0x00000000 : Word)] }
    let new := [Event.cmd 0x00000000, .rsp { status := .illegalCommand }]
    (next (step s)).trace = s.trace ++ new ∧ Event.cmd 0x00000000 ∈ new := by decide
theorem witness_address_slot :
    let s := fresh [okOf [0x00, 0xED]]
    let u := fresh [(okOf [0x00, 0xED]).withSlot0 0xAA]
    s.dropSlot0 = u.dropSlot0 ∧ s ≠ u ∧ exec (.rd 0x02) s = .next (next (exec (.rd 0x02) s)) :=
  ⟨by decide, by decide, rfl⟩
/-- A burst over the build's P_MAX_BURST. -/
theorem witness_burst_over_max : ({ Params.reference with maxBurst := 9 } : Params).maxBurst.toNat < (10 : BitVec 4).toNat := by
  decide
/-- A rule that waits for a read, with the request of a write on XREQ. -/
theorem witness_no_value :
    let s := { fresh [okOf []] with phase := .busy (.await .rd), xreq := some { kind := .writeOnly, tx := [0x5A, 0x00] } }
    s.resetIn = [] ∧ s.phase = .busy (.await .rd) ∧ s.live = okOf [] :: [] ∧ (okOf []).ok = true := by decide
theorem witness_no_frame : (sending [] []).resetIn = [] ∧ (sending [] []).phase = .busy .send ∧ (sending [] []).txBuf = [] := by
  decide
theorem witness_undriven :
    Response.done.d0 = none ∧ (Response.unexpectedDeviceId 0xAD).d0 = some 0xAD ∧
      (Response.transportError someTerr).terr = some someTerr ∧ Response.done.bytes.length ≤ 0 := by decide
theorem witness_driven_bytes :
    let r : Response := { status := .ok, len := some 2, bytes := [0x01, 0x23] }
    r.len = some 2 ∧ 1 < r.bytes.length := by decide
theorem witness_start_twice :
    let s := boundTo 0b01 [okOf [], okOf []]
    s.Calm ∧ s.bound = true ∧ (okOf []).ok = true ∧ s.live = okOf [] :: okOf [] :: [] := by decide

end Sys2Proof.Machine.Tests
end

namespace Sys2Proof.Machine

/-! ## The uniform shape of the rules

Every command is one bound check, one first frame, and then the rest of its rule `resumeAt`; and the rest of a rule
responds, faults, latches or sends INIT's next frame. -/

/-- A range, an ODR and an HPF code. -/
abbrev Codes := BitVec 2 × BitVec 4 × BitVec 3

/-- The codes that a waiting INIT will latch. -/
def Ret.codes : Ret → Option Codes
  | .initId r o h => some (r, o, h)
  | .initFilter r o h => some (r, o, h)
  | .initRange r o h => some (r, o, h)
  | _ => none

end Sys2Proof.Machine

namespace Sys2Proof

section
open Machine

/-- The first frame that an instruction's rule sends (30_encoding.md R50 to R52, 41_driver_ops.md, 42_decode.md). -/
def Instr.request : Instr → Request
  | .wr addr data => ⟨.writeOnly, writeFrame addr data⟩
  | .rd addr => ⟨.duplex, readFrame addr⟩
  | .brd addr len => ⟨.duplex, burstFrame addr len.toNat⟩
  | .init _ _ _ _ _ _ => ⟨.duplex, readFrame regDEVID⟩
  | .start => ⟨.writeOnly, writeFrame regPOWER_CTL measurementByte⟩
  | .getid => ⟨.duplex, readFrame regDEVID⟩
  | .temp => ⟨.duplex, burstFrame regTEMP2 2⟩
  | .accr => ⟨.duplex, burstFrame regXDATA3 9⟩
  | .accn => ⟨.duplex, burstFrame regXDATA3 9⟩
  | .wrframe addr data => ⟨.writeOnly, writeFrame addr data⟩
  | .rdframe addr => ⟨.duplex, readFrame addr⟩
  | .brdframe addr n => ⟨.duplex, burstFrame addr n.toNat⟩

/-- Where an instruction's rule waits for the answer to its first frame, in a build of the variant `v`. -/
def Instr.ret (v : HpfVariant) : Instr → Ret
  | .wr _ _ => .wr
  | .rd _ => .rd
  | .brd _ len => .brd len
  | .init rset rcode oset ocode hset hcode =>
      .initId (resolveRange rset rcode) (resolveOdr oset ocode) (resolveHpf v hset hcode)
  | .start => .start
  | .getid => .getid
  | .temp => .temp
  | .accr => .accr
  | .accn => .accn
  | .wrframe _ _ => .alone
  | .rdframe _ => .alone
  | .brdframe _ _ => .alone

/-- The first frame of an instruction, and then the rest of its rule. -/
def Instr.sends (i : Instr) (s : State) : Result :=
  sendFrame i.request.kind i.request.tx (i.ret s.params.variant) (resumeAt (i.ret s.params.variant)) s

/-- The codes that an instruction latches from `s` if it succeeds: those of an INIT while the block is unbound. -/
def Instr.codes (i : Instr) (s : State) : Option Codes :=
  if s.bound then none else (i.ret s.params.variant).codes

end

end Sys2Proof

namespace Sys2Proof.Machine

theorem exec_cases_of_needBound (i : Instr) {s : State} (hc : (i.ret s.params.variant).codes = none)
    (h : exec i s = needBound i.sends s) :
    (∃ r, exec i s = respond r s) ∨
    (exec i s = i.sends s ∧ (s.bound = true → (i.ret s.params.variant).codes = none)) := by
  rcases needBound_cases i.sends s with ⟨-, h'⟩ | ⟨-, h'⟩
  · exact .inr ⟨h.trans h', fun _ => hc⟩
  · exact .inl ⟨_, h.trans h'⟩

/-- An instruction responds at once (its check of BOUND failed), or sends its first frame; INIT does so only while
the block is unbound. -/
theorem exec_cases (i : Instr) (s : State) :
    (∃ r, exec i s = respond r s) ∨
    (exec i s = i.sends s ∧ (s.bound = true → (i.ret s.params.variant).codes = none)) := by
  cases i with
  | wr _ _ => exact .inr ⟨rfl, fun _ => rfl⟩
  | rd _ => exact .inr ⟨rfl, fun _ => rfl⟩
  | brd _ _ => exact .inr ⟨rfl, fun _ => rfl⟩
  | init rset rcode oset ocode hset hcode =>
      cases hb : s.bound
      · exact .inr ⟨by simp only [exec, execInit, hb]; rfl, nofun⟩
      · exact .inl ⟨.alreadyBound, by simp only [exec, execInit, hb]; rfl⟩
  | start => exact exec_cases_of_needBound .start rfl rfl
  | getid => exact exec_cases_of_needBound .getid rfl rfl
  | temp => exact exec_cases_of_needBound .temp rfl rfl
  | accr => exact exec_cases_of_needBound .accr rfl rfl
  | accn => exact exec_cases_of_needBound .accn rfl rfl
  | wrframe _ _ => exact .inr ⟨rfl, fun _ => rfl⟩
  | rdframe _ => exact .inr ⟨rfl, fun _ => rfl⟩
  | brdframe _ _ => exact .inr ⟨rfl, fun _ => rfl⟩

/-- How many bytes of the received frame the rest of a rule reads through, from rx(0) on. -/
def Ret.reads : Ret → Nat
  | .rd => 2
  | .brd len => 1 + len.toNat
  | .initId _ _ _ => 2
  | .getid => 2
  | .temp => 3
  | .accr => 10
  | .accn => 10
  | _ => 0

/-- Where INIT waits next, after its identity read and after its FILTER frame (41_driver_ops.md R75). -/
def Ret.next : Ret → Option Ret
  | .initId r o h => some (.initFilter r o h)
  | .initFilter r o h => some (.initRange r o h)
  | _ => none

theorem Ret.codes_of_next {ret ret' : Ret} (h : ret.next = some ret') : ret'.codes = ret.codes := by
  cases ret <;> cases h <;> rfl

/-- Induction over the frames that a rule still has to send. -/
theorem Ret.next_induction {P : Ret → Prop} (step : ∀ ret, (∀ ret', ret.next = some ret' → P ret') → P ret)
    (ret : Ret) : P ret := by
  have range (r o h) : P (.initRange r o h) := step _ nofun
  have filter (r o h) : P (.initFilter r o h) := step _ fun _ hn => Option.some.inj hn ▸ range r o h
  refine step ret fun ret' hn => ?_
  cases ret with
  | initId r o h => exact Option.some.inj hn ▸ filter r o h
  | initFilter r o h => exact Option.some.inj hn ▸ range r o h
  | _ => cases hn

/-- What the rest of a rule can do once its frame has returned. -/
inductive Resumes (s : State) : Ret → Answer → Result → Prop
  | responds {ret a} (r : Response) : Resumes s ret a (respond r s)
  /-- GETID under BASELINE answers a transport error with a drawn byte (41_driver_ops.md R79). -/
  | draws {e} (r : Response) : Resumes s .getid (.err e) (respond r s.drawn)
  /-- The received frame is shorter than what the rule reads. -/
  | faults {ret a} (f : Fault) (ha : ∀ e, a ≠ .err e) (hlen : s.rxBuf.length < ret.reads) :
      Resumes s ret a (.fault f)
  /-- INIT's next frame (41_driver_ops.md R75). -/
  | sends {ret ret' a} (addr : Addr) (value : Byte) (hn : ret.next = some ret') : Resumes s ret a
      (sendFrame .writeOnly (writeFrame addr value) ret' (resumeAt ret') s)
  | latches {r o h a} : Resumes s (.initRange r o h) a (respond .done (s.latch r o h))
  | returns {a} : Resumes s .alone a (.next s.frameDone)

/-! ### What a rule reads -/

theorem rx_ok {s : State} {i : Nat} (h : i < s.rxBuf.length) : ∃ b, s.rx i = .ok b := ⟨_, bufferByte_of_lt h⟩

theorem byteResponse_ok {s : State} (h : 2 ≤ s.rxBuf.length) : ∃ r, byteResponse s = .ok r := by
  obtain ⟨b, hb⟩ := rx_ok (s := s) (i := 1) (by omega)
  exact ⟨_, by simp only [byteResponse, hb]; rfl⟩

theorem burstResponse_ok {s : State} {len : BitVec 4} (h : 1 + len.toNat ≤ s.rxBuf.length) :
    ∃ r, burstResponse len s = .ok r :=
  ⟨_, by simp only [burstResponse, rxBytes_of_le s _ 1 h]; rfl⟩

theorem tempResponse_ok {s : State} (h : 3 ≤ s.rxBuf.length) : ∃ r, tempResponse s = .ok r := by
  obtain ⟨t2, h2⟩ := rx_ok (s := s) (i := 1) (by omega)
  obtain ⟨t1, h1⟩ := rx_ok (s := s) (i := 2) (by omega)
  exact ⟨_, by simp only [tempResponse, h2, h1]; rfl⟩

theorem lane_ok {s : State} {i : Nat} (h : i + 2 < s.rxBuf.length) : ∃ w, lane s i = .ok w := by
  obtain ⟨b0, h0⟩ := rx_ok (s := s) (i := i) (by omega)
  obtain ⟨b1, h1⟩ := rx_ok (s := s) (i := i + 1) (by omega)
  obtain ⟨b2, h2⟩ := rx_ok (s := s) h
  exact ⟨_, by simp only [lane, h0, h1, h2]; rfl⟩

theorem lanes_ok {s : State} (h : 10 ≤ s.rxBuf.length) :
    ∃ x y z, lane s 1 = .ok x ∧ lane s 4 = .ok y ∧ lane s 7 = .ok z := by
  obtain ⟨x, hx⟩ := lane_ok (s := s) (i := 1) (by omega)
  obtain ⟨y, hy⟩ := lane_ok (s := s) (i := 4) (by omega)
  obtain ⟨z, hz⟩ := lane_ok (s := s) (i := 7) (by omega)
  exact ⟨x, y, z, hx, hy, hz⟩

theorem accrResponse_ok {s : State} (h : 10 ≤ s.rxBuf.length) : ∃ r, accrResponse s = .ok r := by
  obtain ⟨x, y, z, hx, hy, hz⟩ := lanes_ok h
  exact ⟨_, by simp only [accrResponse, hx, hy, hz]; rfl⟩

theorem accnResponse_ok {s : State} (h : 10 ≤ s.rxBuf.length) : ∃ r, accnResponse s = .ok r := by
  obtain ⟨x, y, z, hx, hy, hz⟩ := lanes_ok h
  exact ⟨_, by simp only [accnResponse, hx, hy, hz]; rfl⟩

/-! ### The rest of every rule -/

/-- A response made of received bytes is given when the frame is long enough for it. -/
theorem Resumes.respondWith {s : State} {ret : Ret} {a : Answer} {r : Except Fault Response} (ha : ∀ e, a ≠ .err e)
    (hr : ret.reads ≤ s.rxBuf.length → ∃ b, r = .ok b) : Resumes s ret a (respondWith r s) := by
  rcases respondWith_cases r s with ⟨b, -, h⟩ | ⟨f, hf, h⟩ <;> rw [h]
  · exact .responds b
  · refine .faults f ha (Nat.lt_of_not_le fun hle => ?_)
    obtain ⟨b, hb⟩ := hr hle
    exact nomatch hb.symm.trans hf

theorem Resumes.checkId {s : State} {r : BitVec 2} {o : BitVec 4} {h : BitVec 3} {a : Answer}
    (ha : ∀ e, a ≠ .err e) : Resumes s (.initId r o h) a (checkId r o h s) := by
  unfold Machine.checkId
  cases hid : s.rx 1 with
  | error f =>
      refine .faults f ha (Nat.lt_of_not_le fun hle => ?_)
      obtain ⟨b, hb⟩ := rx_ok (s := s) (i := 1) hle
      exact nomatch hb.symm.trans hid
  | ok id =>
      dsimp only
      split
      · exact .responds _
      · exact .sends _ _ rfl

/-- A rule that surfaces its transport error, and otherwise goes on as `o`. -/
theorem Resumes.surfacing {s : State} {ret : Ret} {o : Result}
    (he : ∀ e, resumeAt ret (.err e) s = raise (.transportError e) s)
    (hr : ∀ b, resumeAt ret (.okRx b) s = o) (hd : resumeAt ret .okDone s = o)
    (ho : ∀ a : Answer, (∀ e, a ≠ .err e) → Resumes s ret a o) {a : Answer} :
    Resumes s ret a (resumeAt ret a s) := by
  cases a with
  | err e => exact he e ▸ .responds _
  | okRx b => exact hr b ▸ ho _ nofun
  | okDone => exact hd ▸ ho _ nofun

/-- A rule that surfaces its transport error, and otherwise responds with received bytes. -/
theorem Resumes.readBytes {s : State} (ret : Ret) (r : Except Fault Response)
    (he : ∀ e, resumeAt ret (.err e) s = raise (.transportError e) s)
    (hr : ∀ b, resumeAt ret (.okRx b) s = Machine.respondWith r s)
    (hd : resumeAt ret .okDone s = Machine.respondWith r s)
    (hb : ret.reads ≤ s.rxBuf.length → ∃ b, r = .ok b) {a : Answer} : Resumes s ret a (resumeAt ret a s) :=
  .surfacing he hr hd fun _ ha => .respondWith ha hb

/-- The inversion of `resumeAt`, rule by rule. -/
theorem resumeAt_resumes (ret : Ret) (a : Answer) (s : State) : Resumes s ret a (resumeAt ret a s) := by
  cases ret with
  | wr => exact Resumes.surfacing (o := respond .done s) (fun _ => rfl) (fun _ => rfl) rfl (fun _ _ => .responds _)
  | rd => exact .readBytes .rd (byteResponse s) (fun _ => rfl) (fun _ => rfl) rfl byteResponse_ok
  | brd len => exact .readBytes (.brd len) (burstResponse len s) (fun _ => rfl) (fun _ => rfl) rfl burstResponse_ok
  | initId r o h => exact .surfacing (fun _ => rfl) (fun _ => rfl) rfl (fun _ ha => .checkId ha)
  | initFilter r o h => exact .surfacing (fun _ => rfl) (fun _ => rfl) rfl (fun _ _ => .sends _ _ rfl)
  | initRange r o h => exact .surfacing (fun _ => rfl) (fun _ => rfl) rfl (fun _ _ => .latches)
  | start =>
      cases a with
      | err e =>
          simp only [resumeAt, afterStart]
          split <;> exact .responds _
      | okRx b => exact .responds _
      | okDone => exact .responds _
  | getid =>
      cases a with
      | err e =>
          simp only [resumeAt, afterGetid]
          split
          · exact .responds _
          · exact .draws _
      | okRx b => exact .respondWith nofun byteResponse_ok
      | okDone => exact .respondWith nofun byteResponse_ok
  | temp => exact .readBytes .temp (tempResponse s) (fun _ => rfl) (fun _ => rfl) rfl tempResponse_ok
  | accr => exact .readBytes .accr (accrResponse s) (fun _ => rfl) (fun _ => rfl) rfl accrResponse_ok
  | accn => exact .readBytes .accn (accnResponse s) (fun _ => rfl) (fun _ => rfl) rfl accnResponse_ok
  | alone => exact .returns

/-! ## What the decoder gives -/

theorem decodeA_ok {m : BitVec 4} {w : Word} {usesData usesLen : Bool} {build : Addr → Byte → BitVec 4 → Instr}
    {i : Instr} (h : decodeA m w usesData usesLen build = .ok i) :
    ∃ addr data len, i = build addr data len ∧ (usesLen = true → len ≠ 0 ∧ len.toNat ≤ m.toNat) := by
  simp only [decodeA] at h
  split_ifs at h with _ _ _ hlen
  refine ⟨_, _, _, (Except.ok.inj h).symm, fun hu => ?_⟩
  rw [not_and, not_or, not_lt] at hlen
  exact hlen hu

theorem decodeZ_ok {w : Word} {i j : Instr} (h : decodeZ w j = .ok i) : i = j := by
  simp only [decodeZ] at h
  split_ifs at h
  exact (Except.ok.inj h).symm

theorem rangeFieldOk_of {rset : Bool} {rcode : BitVec 2} (hs : ¬(rset = true ∧ rcode = 0))
    (hz : ¬(rset = false ∧ rcode ≠ 0)) : rangeFieldOk rset rcode = true := by
  cases rset <;> simp_all [rangeFieldOk]

theorem odrFieldOk_of {oset : Bool} {ocode : BitVec 4} (hs : ¬(oset = true ∧ 10 < ocode.toNat))
    (hz : ¬(oset = false ∧ ocode ≠ 0)) : odrFieldOk oset ocode = true := by
  cases oset <;> simp_all [odrFieldOk]

theorem hpfFieldOk_of {v : HpfVariant} {hset : Bool} {hcode : BitVec 3} (hs : ¬(hset = true ∧ hcode = 7))
    (hz : ¬(hset = false ∧ hcode ≠ 0)) (hv : ¬(hset = true ∧ v = .minimal)) :
    hpfFieldOk v hset hcode = true := by
  cases v <;> cases hset <;> simp_all [hpfFieldOk]

theorem decodeI_ok {p : Params} {w : Word} {i : Instr} (h : decodeI p.variant w = .ok i) : i.wellFormed p = true := by
  simp only [decodeI] at h
  split_ifs at h with _ hr ho hh hz hv
  rw [not_or, not_or] at hz
  obtain ⟨hzr, hzo, hzh⟩ := hz
  rw [← Except.ok.inj h]
  simp only [Instr.wellFormed, rangeFieldOk_of hr hzr, odrFieldOk_of ho hzo, hpfFieldOk_of hh hzh hv, Bool.and_self]

theorem decodeWord_wellFormed {p : Params} {w : Word} {i : Instr} (h : decodeWord p w = .ok i) :
    i.wellFormed p = true := by
  unfold decodeWord at h
  split at h
  · obtain ⟨_, _, _, rfl, -⟩ := decodeA_ok h; rfl
  · obtain ⟨_, _, _, rfl, -⟩ := decodeA_ok h; rfl
  · obtain ⟨_, _, _, rfl, hlen⟩ := decodeA_ok h
    simpa [Instr.wellFormed] using hlen rfl
  · exact decodeI_ok h
  · rw [decodeZ_ok h]; rfl
  · rw [decodeZ_ok h]; rfl
  · rw [decodeZ_ok h]; rfl
  · rw [decodeZ_ok h]; rfl
  · rw [decodeZ_ok h]; rfl
  · exact nomatch h

theorem decodeFrame_ok {bytes : List Byte} {i : Instr} (h : decodeFrame bytes = .ok i) (p : Params) :
    i.isCommand = false ∧ i.wellFormed p = true := by
  cases bytes with
  | nil => exact nomatch h
  | cons a rest =>
      simp only [decodeFrame] at h
      split_ifs at h with _ hshape hone
      · exact Except.ok.inj h ▸ ⟨rfl, rfl⟩
      · refine Except.ok.inj h ▸ ⟨rfl, ?_⟩
        simp only [maxFrame, not_or, not_lt] at hshape
        obtain ⟨-, hzero, hmax⟩ := hshape
        have hn : (BitVec.ofNat 4 rest.length).toNat = rest.length :=
          BitVec.toNat_ofNat .. ▸ Nat.mod_eq_of_lt (by omega)
        simp only [Instr.wellFormed, hn, maxFrame, Bool.and_eq_true, bne_iff_ne, ne_eq, decide_eq_true_eq]
        bv_omega
      · split at h
        · exact Except.ok.inj h ▸ ⟨rfl, rfl⟩
        · exact nomatch h

theorem ret_of_not_isCommand {i : Instr} (h : i.isCommand = false) (v : HpfVariant) : i.ret v = .alone := by
  cases i with
  | wrframe | rdframe | brdframe => rfl
  | _ => cases h

end Sys2Proof.Machine

namespace Sys2Proof.Machine

/-! ## What a rule leaves in the settings and the trace -/

/-- Between two frames of a rule that began at `s`: the parameters and the settings stand, and no command has been
accepted. -/
structure State.InRule (s t : State) : Prop where
  params : t.params = s.params
  settings : t.settings = s.settings
  trace : ∃ new, t.trace = s.trace ++ new ∧ ∀ w, Event.cmd w ∉ new

theorem State.InRule.refl (s : State) : s.InRule s := ⟨rfl, rfl, [], by simp, by simp⟩

theorem State.InRule.trans {s t u : State} (h : s.InRule t) (h' : t.InRule u) : s.InRule u := by
  obtain ⟨new, ht, hn⟩ := h.trace
  obtain ⟨new', ht', hn'⟩ := h'.trace
  exact ⟨h'.params.trans h.params, h'.settings.trans h.settings, new ++ new', by simp [ht', ht], by simp [hn, hn']⟩

theorem State.InRule.openFrame (s : State) (kind : Kind) (tx : List Byte) (ret : Ret) :
    s.InRule (s.openFrame kind tx ret) := ⟨rfl, rfl, _, State.openFrame_trace .., by simp⟩

theorem State.InRule.takeAnswer (s : State) (q : Request) (x : Xrsp) (later : List Xrsp) :
    s.InRule (s.takeAnswer q x later) := ⟨rfl, rfl, _, State.takeAnswer_trace .., by simp⟩

theorem State.InRule.closeFrame (s : State) : s.InRule s.closeFrame :=
  ⟨rfl, rfl, _, State.closeFrame_trace .., by simp⟩

theorem State.InRule.taken (s : State) (r : Response) : s.InRule (s.taken r) :=
  ⟨rfl, rfl, _, State.taken_trace .., by simp⟩

/-- An update that leaves the parameters, the settings and the trace. -/
theorem State.InRule.of_eq {s t : State} (hp : t.params = s.params) (hs : t.settings = s.settings)
    (ht : t.trace = s.trace) : s.InRule t := ⟨hp, hs, [], by simp [ht], by simp⟩

theorem State.InRule.offer (s : State) (r : Response) : s.InRule (s.offer r) := .of_eq rfl rfl rfl

theorem State.InRule.latch {s t : State} (h : s.InRule t) (r : BitVec 2) (o : BitVec 4) (f : BitVec 3) :
    (s.latch r o f).InRule (t.latch r o f) := ⟨h.params, by simp [State.settings, h.params], h.trace⟩

/-- The phases in which a rule that will latch `c` can leave the block: at its end, or waiting. -/
def Phase.mayLatch (c : Option Codes) : Phase → Prop
  | .idle => True
  | .busy .respond => True
  | .busy (.await ret) => ret.codes = none ∨ ret.codes = c
  | .busy (.start _) => False
  | .busy .send => False

/-- Everything a rule that began at `s`, and latches `c` if it succeeds, can leave of the settings: a RESET has set
them, they stand, or `c` is latched with the response OK. -/
inductive Leaves (c : Option Codes) (s : State) : State → Prop
  | reset (u : State) (h : s.InRule u) : Leaves c s u.applyReset
  | keeps {t : State} (h : s.InRule t) (hp : t.phase.mayLatch c) : Leaves c s t
  | latches {t : State} {r : BitVec 2} {o : BitVec 4} {h : BitVec 3} (hc : c = some (r, o, h))
      (hl : (s.latch r o h).InRule t) (hp : t.phase = .idle ∨ t.phase = .busy .respond) (hr : t.RespondsOk) :
      Leaves c s t

variable {c : Option Codes}

theorem Leaves.of_inRule {s u t : State} (h : s.InRule u) : Leaves c u t → Leaves c s t
  | .reset v hv => .reset v (h.trans hv)
  | .keeps ht hp => .keeps (h.trans ht) hp
  | .latches (r := r) (o := o) (h := f) hc hl hp hr => .latches hc ((h.latch r o f).trans hl) hp hr

/-- Whatever next state the result gives satisfies `P`. -/
def Ends (P : State → Prop) (o : Result) : Prop := ∀ t, o = .next t → P t

theorem ends_next {P : State → Prop} {t : State} (h : P t) : Ends P (.next t) := by
  rintro _ ⟨⟩
  exact h

theorem ends_fault {P : State → Prop} (f : Fault) : Ends P (.fault f) := fun _ h => nomatch h

theorem Ends.of_inRule {s u : State} {o : Result} (h : s.InRule u) (ho : Ends (Leaves c u) o) : Ends (Leaves c s) o :=
  fun t ht => (ho t ht).of_inRule h

theorem leaves_respond (r : Response) (s : State) : Ends (Leaves c s) (respond r s) := by
  have ho := State.InRule.offer s r
  rcases respond_cases r s with h | h | h <;> rw [h] <;> refine ends_next ?_
  · exact .reset _ ho
  · exact .keeps (ho.trans (.taken _ r)) trivial
  · exact .keeps ho trivial

theorem leaves_latch {r : BitVec 2} {o : BitVec 4} {f : BitVec 3} (hc : c = some (r, o, f)) (s : State) :
    Ends (Leaves c s) (respond .done (s.latch r o f)) := by
  have ho := State.InRule.offer (s.latch r o f) .done
  rcases respond_cases .done (s.latch r o f) with h | h | h <;> rw [h] <;> refine ends_next ?_
  · exact .reset s (.refl s)
  · exact .latches hc (ho.trans (.taken _ .done)) (.inl rfl) (.inl (by simp [Response.done]))
  · exact .latches hc ho (.inr rfl) (.inr rfl)

/-- The answer to an outstanding request brings the rule to its rest `k`. -/
theorem leaves_awaitAnswer {k : Answer → State → Result} (hk : ∀ a u, Ends (Leaves c u) (k a u)) {s : State}
    (hp : s.phase.mayLatch c) : Ends (Leaves c s) (awaitAnswer k s) := by
  rcases awaitAnswer_cases k s with h | h | ⟨q, x, later, -, -, h | h⟩ <;> rw [h]
  · exact ends_next (.reset s (.refl s))
  · exact ends_next (.keeps (.refl s) hp)
  · exact ends_next (.reset _ (.takeAnswer ..))
  · exact (hk _ _).of_inRule ((State.InRule.takeAnswer ..).trans (.closeFrame _))

theorem leaves_sendFrame {ret : Ret} {k : Answer → State → Result} (hr : ret.codes = none ∨ ret.codes = c)
    (hk : ∀ a u, Ends (Leaves c u) (k a u)) (kind : Kind) (tx : List Byte) (s : State) :
    Ends (Leaves c s) (sendFrame kind tx ret k s) := by
  rcases guardReset_cases (fun s => awaitAnswer k (s.openFrame kind tx ret)) s with ⟨-, h⟩ | ⟨-, h⟩ <;>
    rw [sendFrame, h]
  · exact ends_next (.reset s (.refl s))
  · exact (leaves_awaitAnswer (s := s.openFrame kind tx ret) hk hr).of_inRule (.openFrame ..)

theorem leaves_resumeAt (ret : Ret) (hc : ret.codes = none ∨ ret.codes = c) (a : Answer) (s : State) :
    Ends (Leaves c s) (resumeAt ret a s) := by
  induction ret using Ret.next_induction generalizing a s with
  | step ret ih =>
      generalize ho : resumeAt ret a s = o
      cases ho ▸ resumeAt_resumes ret a s with
      | responds r => exact leaves_respond r s
      | draws r => exact (leaves_respond r s.drawn).of_inRule (State.InRule.of_eq (t := s.drawn) rfl rfl rfl)
      | faults f => exact ends_fault f
      | sends addr value hn =>
          rw [← Ret.codes_of_next hn] at hc
          exact leaves_sendFrame hc (ih _ hn hc) _ _ s
      | latches => exact leaves_latch (hc.resolve_left nofun).symm s
      | returns => exact ends_next (.keeps (.of_eq rfl rfl rfl) trivial)

/-- An instruction from a state in which BOUND is set latches nothing. -/
theorem leaves_exec (i : Instr) (s : State) :
    Ends (Leaves (i.codes s) s) (exec i s) := by
  rcases exec_cases i s with ⟨r, h⟩ | ⟨h, hb⟩ <;> rw [h]
  · exact leaves_respond r s
  · have hc : (i.ret s.params.variant).codes = none ∨
        (i.ret s.params.variant).codes = i.codes s := by
      unfold Instr.codes
      cases hs : s.bound
      · exact .inr rfl
      · exact .inl (hb hs)
    exact leaves_sendFrame hc (leaves_resumeAt _ hc) _ _ s

/-! ### What a step leaves in the settings and the trace -/

/-- The codes that the step from `s` latches if it ends an INIT successfully. -/
def State.codes (s : State) : Option Codes :=
  match s.phase, s.cmdIn with
  | .idle, w :: _ =>
      match decodeWord s.params w with
      | .ok i => i.codes s
      | .error _ => none
  | .idle, [] => none
  | .busy (.start i), _ => i.codes s
  | .busy (.await ret), _ => ret.codes
  | .busy .send, _ => none
  | .busy .respond, _ => none

theorem State.InRule.begin (s : State) (i : Instr) : s.InRule (s.begin i) := .of_eq rfl rfl rfl

/-- A step that accepts no command, and one that does. -/
theorem step_leaves (s : State) :
    Ends (Leaves s.codes s) (step s) ∨
    ∃ w later, s.phase = .idle ∧ s.cmdIn = w :: later ∧ Ends (Leaves s.codes (s.accept w later)) (step s) := by
  cases hd : s.resetDue with
  | true => exact .inl (step_due hd ▸ ends_next (.reset s (.refl s)))
  | false =>
      cases hp : s.phase with
      | idle =>
          cases hc : s.cmdIn with
          | nil =>
              rw [step_idle hd hp hc]
              exact .inl (ends_next (.keeps (.refl s) (by simp [hp, Phase.mayLatch])))
          | cons w later =>
              refine .inr ⟨w, later, rfl, rfl, ?_⟩
              cases hw : decodeWord s.params w with
              | ok i =>
                  have hcodes : s.codes = i.codes ((s.accept w later).begin i) := by
                    simp only [State.codes, hp, hc, hw]
                    rfl
                  rw [step_command hd hp hc hw, hcodes]
                  exact (leaves_exec i _).of_inRule (.begin _ i)
              | error e =>
                  rw [step_illegal hd hp hc hw]
                  exact leaves_respond _ _
      | busy pos =>
          refine .inl ?_
          cases pos with
          | start i =>
              rw [step_start hd hp, show s.codes = i.codes s by simp [State.codes, hp]]
              exact leaves_exec i s
          | send =>
              cases hf : decodeFrame s.txBuf with
              | ok i =>
                  have hret := ret_of_not_isCommand (decodeFrame_ok hf s.params).1 s.params.variant
                  have hcodes : s.codes = i.codes s := by simp [State.codes, hp, Instr.codes, hret, Ret.codes]
                  rw [step_send hd hp hf, hcodes]
                  exact leaves_exec i s
              | error e =>
                  rw [step_send_error hd hp hf]
                  split <;> exact fun _ h => nomatch h
          | await ret =>
              rw [step_await hd hp, show s.codes = ret.codes by simp [State.codes, hp]]
              exact leaves_awaitAnswer (leaves_resumeAt ret (.inr rfl)) (by simp [hp, Phase.mayLatch])
          | respond =>
              rw [step_respond hd hp]
              rcases deliver_cases s with h | ⟨r, -, -, h⟩ | h <;> rw [h] <;> refine ends_next ?_
              · exact .reset s (.refl s)
              · exact .keeps (.taken s r) trivial
              · exact .keeps (.refl s) (by simp [hp, Phase.mayLatch])

end Sys2Proof.Machine

namespace Sys2Proof.Machine

/-! ## The settings registers -/

theorem settingsLegal_iff {v : HpfVariant} {r : BitVec 2} {o : BitVec 4} {h : BitVec 3} :
    settingsLegal v r o h = true ↔ r ≠ 0 ∧ o.toNat ≤ 10 ∧ h.toNat ≤ 6 ∧ (v = .full ∨ h = 0) := by
  simp [settingsLegal, and_assoc]

theorem resolveRange_ne_zero {rset : Bool} {rcode : BitVec 2} (h : rangeFieldOk rset rcode = true) :
    resolveRange rset rcode ≠ 0 := by
  cases rset
  · simp [resolveRange]
  · simpa [rangeFieldOk, resolveRange] using h

theorem resolveOdr_le {oset : Bool} {ocode : BitVec 4} (h : odrFieldOk oset ocode = true) :
    (resolveOdr oset ocode).toNat ≤ 10 := by
  cases oset
  · simp [resolveOdr]
  · simpa [odrFieldOk, resolveOdr] using h

theorem resolveHpf_legal {v : HpfVariant} {hset : Bool} {hcode : BitVec 3} (h : hpfFieldOk v hset hcode = true) :
    (resolveHpf v hset hcode).toNat ≤ 6 ∧ (v = .full ∨ resolveHpf v hset hcode = 0) := by
  cases v with
  | minimal => exact ⟨by simp [resolveHpf], .inr rfl⟩
  | full =>
      refine ⟨?_, .inl rfl⟩
      cases hset
      · simp [resolveHpf]
      · have h7 : hcode ≠ 7 := by simpa [hpfFieldOk] using h
        simp only [resolveHpf, if_true]
        bv_omega

/-- 41_driver_ops.md R76: what a well-formed INIT resolves to is legal. -/
theorem settingsLegal_resolve {p : Params} {rset oset hset : Bool} {rcode : BitVec 2} {ocode : BitVec 4}
    {hcode : BitVec 3} (h : (Instr.init rset rcode oset ocode hset hcode).wellFormed p = true) :
    settingsLegal p.variant (resolveRange rset rcode) (resolveOdr oset ocode) (resolveHpf p.variant hset hcode) =
      true := by
  simp only [Instr.wellFormed, Bool.and_eq_true] at h
  obtain ⟨⟨hr, ho⟩, hh⟩ := h
  exact settingsLegal_iff.mpr ⟨resolveRange_ne_zero hr, resolveOdr_le ho, resolveHpf_legal hh⟩

/-- Settles O33: each resolution unfolds, and a well-formed INIT resolves to legal codes field by field. -/
theorem settingsResolve : Obligations.SettingsResolve := by
  unfold Obligations.SettingsResolve
  refine ⟨fun _ _ _ _ => ⟨rfl, rfl, rfl, rfl⟩, fun _ _ _ _ _ _ _ h => settingsLegal_resolve h, fun s r o f hv => ?_⟩
  simp [State.readHpfSel, hv]

/-- The codes that an instruction, a waiting rule or a step latches are legal, and the block is unbound. -/
def LegalCodes (s : State) (c : Option Codes) : Prop :=
  ∀ r o h, c = some (r, o, h) → s.bound = false ∧ settingsLegal s.params.variant r o h = true

theorem Ret.legal_iff {ret : Ret} {s : State} :
    ret.legal s.params.variant s.bound = true ↔ LegalCodes s ret.codes := by
  cases ret <;> simp [Ret.legal, LegalCodes, Ret.codes]

theorem legalCodes_of_wellFormed {i : Instr} {s : State} (h : i.wellFormed s.params = true) :
    LegalCodes s (i.codes s) := by
  intro r o f hc
  cases hb : s.bound
  · rw [Instr.codes, hb] at hc
    cases i with
    | init rset rcode oset ocode hset hcode =>
        cases hc
        exact ⟨rfl, settingsLegal_resolve h⟩
    | _ => cases hc
  · simp [Instr.codes, hb] at hc

theorem State.legalCodes {s : State} (h : s.settingsOk = true) : LegalCodes s s.codes := by
  have hp : s.phase.legal s.params s.bound = true := (Bool.and_eq_true_iff.mp h).2
  intro r o f hc
  unfold State.codes at hc
  split at hc
  · split at hc
    · exact legalCodes_of_wellFormed (decodeWord_wellFormed ‹_›) r o f hc
    · cases hc
  · cases hc
  next i hph => exact legalCodes_of_wellFormed (by rwa [hph] at hp) r o f hc
  next ret hph => exact Ret.legal_iff.mp (by rwa [hph] at hp) r o f hc
  · cases hc
  · cases hc

/-- The settings registers hold legal codes. -/
def State.CodesLegal (s : State) : Prop := settingsLegal s.params.variant s.rangeSel s.odrSel s.hpfSel = true

theorem State.settingsOk_iff {s : State} :
    s.settingsOk = true ↔ s.CodesLegal ∧ s.phase.legal s.params s.bound = true := Bool.and_eq_true_iff

theorem State.settings_eq_iff {s t : State} : t.settings = s.settings ↔
    t.bound = s.bound ∧ t.rangeSel = s.rangeSel ∧ t.odrSel = s.odrSel ∧ t.hpfSel = s.hpfSel := by
  simp [State.settings]

theorem State.InRule.codesLegal {s t : State} (h : s.InRule t) (hs : s.CodesLegal) : t.CodesLegal := by
  obtain ⟨-, hr, ho, hh⟩ := State.settings_eq_iff.mp h.settings
  simpa [State.CodesLegal, h.params, hr, ho, hh] using hs

theorem State.InRule.bound {s t : State} (h : s.InRule t) : t.bound = s.bound := (State.settings_eq_iff.mp h.settings).1

theorem State.applyReset_settingsOk (s : State) : s.applyReset.settingsOk = true :=
  State.settingsOk_iff.mpr ⟨settingsLegal_iff.mpr ⟨by simp, by simp, by simp, .inr rfl⟩, rfl⟩

theorem State.latch_codesLegal {s : State} {r : BitVec 2} {o : BitVec 4} {f : BitVec 3}
    (h : settingsLegal s.params.variant r o f = true) : (s.latch r o f).CodesLegal := by
  unfold State.CodesLegal
  cases hv : s.params.variant <;> simp_all [settingsLegal_iff]

theorem Phase.legal_of_mayLatch {c : Option Codes} {s : State} {p : Phase}
    (h : p.mayLatch c) (hc : LegalCodes s c) : p.legal s.params s.bound = true := by
  match p, h with
  | .idle, _ => rfl
  | .busy .respond, _ => rfl
  | .busy (.await ret), .inl hn => exact Ret.legal_iff.mpr (hn ▸ nofun)
  | .busy (.await ret), .inr he => exact Ret.legal_iff.mpr (he ▸ hc)

theorem Leaves.settingsOk {c : Option Codes} {s t : State} (h : Leaves c s t)
    (hs : s.CodesLegal) (hc : LegalCodes s c) : t.settingsOk = true := by
  cases h with
  | reset u _ => exact u.applyReset_settingsOk
  | keeps h hp =>
      refine State.settingsOk_iff.mpr ⟨h.codesLegal hs, ?_⟩
      rw [h.params, h.bound]
      exact Phase.legal_of_mayLatch hp hc
  | latches hcodes hl hp _ =>
      obtain ⟨-, hlegal⟩ := hc _ _ _ hcodes
      refine State.settingsOk_iff.mpr ⟨hl.codesLegal (State.latch_codesLegal hlegal), ?_⟩
      rcases hp with hp | hp <;> rw [hp] <;> rfl

/-- Settles O50: a step resets the settings, leaves them, or latches codes that were legal when INIT resolved them. -/
theorem settingsStayLegal : Obligations.SettingsStayLegal := by
  unfold Obligations.SettingsStayLegal
  intro s t hs ht
  have hregs := (State.settingsOk_iff.mp hs).1
  have hc := State.legalCodes hs
  rcases step_leaves s with h | ⟨w, later, -, -, h⟩
  · exact (h t ht).settingsOk hregs hc
  · exact (h t ht).settingsOk (s := s.accept w later) hregs hc

theorem State.applyReset_justReset (s : State) : s.applyReset.justReset = true := by simp [State.justReset]

/-- A rule that can latch nothing changes no setting but by RESET. -/
theorem Leaves.settings_of_none {c : Option Codes} {s t : State} (h : Leaves c s t)
    (hc : c = none) : t.justReset = true ∨ t.settings = s.settings := by
  cases h with
  | reset u _ => exact .inl u.applyReset_justReset
  | keeps h _ => exact .inr h.settings
  | latches h => exact nomatch hc.symm.trans h

theorem State.codes_of_bound {s : State} (hs : s.settingsOk = true) (hb : s.bound = true) : s.codes = none := by
  refine Option.eq_none_iff_forall_ne_some.mpr fun ⟨r, o, f⟩ h => ?_
  exact nomatch hb.symm.trans (State.legalCodes hs r o f h).1

/-- A response given while nothing is pending and no RESET comes ends the command at once. -/
theorem respond_endedAtOnce {s : State} (h : s.Calm) (r : Response) : respond r s = .next (s.endedAtOnce r) := by
  obtain ⟨hr, hy⟩ := h
  rw [respond_taken hr hy]
  simp [State.taken, State.record, State.offer, State.endedAtOnce, hr]

/-- Settles O54: a bound block has no codes to latch, and its INIT is answered before any frame. -/
theorem settingsImmutableWhileBound : Obligations.SettingsImmutableWhileBound := by
  unfold Obligations.SettingsImmutableWhileBound
  refine ⟨fun s t hs hb ht => ?_, fun s rset oset hset rcode ocode hcode hb hcalm => ?_⟩
  · have hc := State.codes_of_bound hs hb
    rcases step_leaves s with h | ⟨w, later, -, -, h⟩
    · exact (h t ht).settings_of_none hc
    · exact (h t ht).settings_of_none (s := s.accept w later) hc
  · simp only [exec, execInit, hb, if_true]
    exact respond_endedAtOnce hcalm _

theorem Ret.ofInit_of_codes {ret : Ret} {c : Codes} (h : ret.codes = some c) :
    Phase.ofInit (.busy (.await ret)) := by
  cases ret with
  | initId | initFilter | initRange => trivial
  | _ => cases h

theorem isInit_of_codes {i : Instr} {s : State} {c : Codes} (h : i.codes s = some c) :
    ∃ rset rcode oset ocode hset hcode, i = .init rset rcode oset ocode hset hcode := by
  unfold Instr.codes at h
  split at h
  · cases h
  · cases i with
    | init => exact ⟨_, _, _, _, _, _, rfl⟩
    | _ => cases h

theorem State.runsInit_of_codes {s : State} {c : Codes} (h : s.codes = some c) : s.RunsInit := by
  unfold State.codes at h
  unfold State.RunsInit
  split at h
  next w later hph hcmd =>
    split at h
    next i hw =>
      obtain ⟨rset, rcode, oset, ocode, hset, hcode, rfl⟩ := isInit_of_codes h
      exact .inr ⟨hph, w, later, rset, rcode, oset, ocode, hset, hcode, hcmd, hw⟩
    · cases h
  · cases h
  next i hph =>
    obtain ⟨_, _, _, _, _, _, rfl⟩ := isInit_of_codes h
    exact .inl (hph ▸ trivial)
  next ret hph => exact .inl (hph ▸ Ret.ofInit_of_codes h)
  · cases h
  · cases h

/-- How BOUND can change: to 1 with codes latched and the response OK, to 0 by RESET. -/
theorem Leaves.bound {c : Option Codes} {s t : State} (h : Leaves c s t) :
    (s.bound = false → t.bound = true → c.isSome = true ∧ t.RespondsOk) ∧
    (s.bound = true → t.bound = false → t.justReset = true) := by
  cases h with
  | reset u _ => exact ⟨fun _ h => (nomatch h), fun _ _ => u.applyReset_justReset⟩
  | keeps h _ =>
      rw [h.bound]
      exact ⟨fun h0 h1 => (nomatch h0.symm.trans h1), fun h1 h0 => nomatch h0.symm.trans h1⟩
  | latches hc hl _ hr => exact ⟨fun _ _ => ⟨hc ▸ rfl, hr⟩, fun _ h => nomatch h.symm.trans hl.bound⟩

/-- Settles O55: BOUND changes only where a step latches an INIT's codes or is RESET. -/
theorem onlySuccessfulInitBinds : Obligations.OnlySuccessfulInitBinds := by
  unfold Obligations.OnlySuccessfulInitBinds
  intro s t ht
  have h : (s.bound = false → t.bound = true → s.codes.isSome = true ∧ t.RespondsOk) ∧
      (s.bound = true → t.bound = false → t.justReset = true) := by
    rcases step_leaves s with h | ⟨w, later, -, -, h⟩
    · exact (h t ht).bound
    · exact (h t ht).bound (s := s.accept w later)
  refine ⟨fun h0 h1 => ?_, h.2⟩
  obtain ⟨hc, hr⟩ := h.1 h0 h1
  obtain ⟨c, hc⟩ := Option.isSome_iff_exists.mp hc
  exact ⟨State.runsInit_of_codes hc, hr⟩

/-- Whatever a rule leaves, it accepted no command. -/
theorem Leaves.trace {c : Option Codes} {s t : State} (h : Leaves c s t) :
    ∃ new, t.trace = s.trace ++ new ∧ ∀ w, Event.cmd w ∉ new := by
  cases h with
  | reset u h =>
      obtain ⟨new, hu, hn⟩ := h.trace
      exact ⟨new ++ [.reset], by simp [hu], by simp [hn]⟩
  | keeps h _ => exact h.trace
  | latches _ hl _ _ => exact hl.trace

/-- Settles O56: only the step that takes a word from CMD records one, before everything its rule records. -/
theorem commandsAcceptedOnlyWhenIdle : Obligations.CommandsAcceptedOnlyWhenIdle := by
  unfold Obligations.CommandsAcceptedOnlyWhenIdle
  intro s t new w ht htr hw
  rcases step_leaves s with h | ⟨w', later, hp, hc, h⟩
  · obtain ⟨new', htr', hn⟩ := (h t ht).trace
    have : new = new' := List.append_cancel_left (htr.symm.trans htr')
    exact absurd (this ▸ hw) (hn w)
  · obtain ⟨new', htr', hn⟩ := (h t ht).trace
    have hnew : new = .cmd w' :: new' := List.append_cancel_left (as := s.trace) (by simpa using htr.symm.trans htr')
    subst hnew
    have hww : w = w' := by simpa [hn] using hw
    exact ⟨hp, by simp [hc, hww], by simp [hww], hn⟩

end Sys2Proof.Machine

namespace Sys2Proof.Machine

/-! ## RESET and reads without a value -/

theorem applyReset_registersReset (s : State) : s.applyReset.RegistersReset :=
  ⟨rfl, rfl, rfl, rfl, rfl, rfl, rfl, rfl, rfl, rfl⟩

theorem applyReset_stale_of_cons {s : State} {r : ResetIn} {later : List ResetIn} (h : s.resetIn = r :: later) :
    s.applyReset.stale = s.stale + (if s.xreq.isSome ∧ r.late = true then 1 else 0) := by
  cases hx : s.xreq <;> cases hl : r.late <;> simp [State.leavesLate, h, hx, hl]

/-- Settles O22: the step is RESET, which takes effect on every field by definition. -/
theorem resetSetsEveryRegister : Obligations.ResetSetsEveryRegister := by
  unfold Obligations.ResetSetsEveryRegister
  refine ⟨⟨rfl, rfl, rfl, rfl, rfl, rfl, rfl, rfl, rfl, rfl⟩, fun s r later h h0 => ?_⟩
  have hdue : s.resetDue = true := by simp [State.resetDue, h, h0]
  refine ⟨s.applyReset, step_due hdue, applyReset_registersReset s, rfl, by simp [h], rfl, rfl, rfl, rfl, rfl,
    applyReset_stale_of_cons h, fun hl hc => ?_⟩
  exact step_idle (resetDue_of_none (by simp [h, hl])) rfl hc

/-! ### The rules that read received bytes -/

theorem rx_of_empty {s : State} (h : s.rxBuf = []) (i : Nat) : s.rx i = .error .noBufferValue := by
  simp [State.rx, bufferByte, h]

theorem lane_of_empty {s : State} (h : s.rxBuf = []) (i : Nat) : lane s i = .error .noBufferValue := by
  simp only [lane, rx_of_empty h]
  rfl

theorem rxBytes_of_empty {s : State} (h : s.rxBuf = []) (i : Nat) {n : Nat} (hn : n ≠ 0) :
    s.rxBytes i n = .error .noBufferValue := by
  cases n with
  | zero => exact absurd rfl hn
  | succ n =>
      simp only [State.rxBytes, rx_of_empty h]
      rfl

/-- A rule that reads at least one received byte. -/
def Ret.Reading (ret : Ret) : Prop :=
  ret ∈ [Ret.rd, .getid, .temp, .accr, .accn] ∨ (∃ len, len ≠ 0 ∧ ret = .brd len) ∨ ∃ r o h, ret = .initId r o h

/-- Without received bytes, every rule that reads one stops. -/
theorem resumeAt_okDone_of_empty {ret : Ret} (hr : ret.Reading) {s : State} (h : s.rxBuf = []) :
    resumeAt ret .okDone s = .fault .noBufferValue := by
  rcases hr with hm | ⟨len, hlen, rfl⟩ | ⟨r, o, f, rfl⟩
  · simp only [List.mem_cons, List.not_mem_nil, or_false] at hm
    rcases hm with rfl | rfl | rfl | rfl | rfl
    · simp only [resumeAt, afterRd, byteResponse, rx_of_empty h]; rfl
    · simp only [resumeAt, afterGetid, byteResponse, rx_of_empty h]; rfl
    · simp only [resumeAt, afterTemp, tempResponse, rx_of_empty h]; rfl
    · simp only [resumeAt, afterAccr, accrResponse, lane_of_empty h]; rfl
    · simp only [resumeAt, afterAccn, accnResponse, lane_of_empty h]; rfl
  · have hn : len.toNat ≠ 0 := fun h0 => hlen (by bv_omega)
    simp only [resumeAt, afterBrd, burstResponse, rxBytes_of_empty h 1 hn]; rfl
  · simp only [resumeAt, afterInitId, checkId, rx_of_empty h]

theorem read_byte_of_lt {r : Response} {k : Nat} (h : k < r.bytes.length) :
    r.read (.byte k) = .ok (.byte r.bytes[k]) := by
  simp [Response.read, h, orUndriven]

theorem read_byte_of_le {r : Response} {k : Nat} (h : r.bytes.length ≤ k) :
    r.read (.byte k) = .error .undrivenField := by
  simp [Response.read, h, orUndriven]

theorem orUndriven_eq {α : Type} (f : α → RspValue) (v : Option α) (a : α) :
    (v = none → orUndriven f v = .error .undrivenField) ∧ (v = some a → orUndriven f v = .ok (f a)) :=
  ⟨fun h => h ▸ rfl, fun h => h ▸ rfl⟩

/-- Settles O58: the reads of buffers and fields case by case, and each reading rule left with an empty RXBUF. -/
theorem undrivenFieldFaults : Obligations.UndrivenFieldFaults := by
  unfold Obligations.UndrivenFieldFaults
  refine ⟨fun s i => ⟨bufferByte_of_lt, bufferByte_of_le, bufferByte_of_lt, bufferByte_of_le⟩, ?_, ?_, ?_⟩
  · intro s ret tx x later hnone hp hr hq hx hok
    have ha : x.answer { kind := .writeOnly, tx := tx } = .okDone := by simp [Xrsp.answer, hok]
    rw [step_await (resetDue_of_none hnone) hp, awaitAnswer_answered hnone hq hx, ha]
    exact resumeAt_okDone_of_empty hr (by simp [ha, Answer.bytes])
  · intro s hnone hp ht
    rw [step_send_error (e := .notAFrame) (resetDue_of_none hnone) hp (by simp [ht, decodeFrame]), if_pos ht]
  · intro r w e n
    obtain ⟨h0, h0'⟩ := orUndriven_eq .word r.d0 w
    obtain ⟨h1, h1'⟩ := orUndriven_eq .word r.d1 w
    obtain ⟨h2, h2'⟩ := orUndriven_eq .word r.d2 w
    obtain ⟨he, he'⟩ := orUndriven_eq .terr r.terr e
    obtain ⟨hn, hn'⟩ := orUndriven_eq .len r.len n
    exact ⟨h0, h0', h1, h1', h2, h2', he, he', hn, hn', fun _ => read_byte_of_le, fun _ => read_byte_of_lt⟩

end Sys2Proof.Machine

namespace Sys2Proof.Machine

/-! ## The channels -/

/-! ### Every frame that a rule sends has one of the three shapes -/

theorem writeByte_direction (addr : Addr) : (writeByte addr).getLsbD 0 = false := by
  simp [writeByte]

theorem readByte_direction (addr : Addr) : (readByte addr).getLsbD 0 = true := by
  simp [readByte]

theorem allPlaceholders_replicate (n : Nat) : allPlaceholders (List.replicate n 0) = true := by
  induction n with
  | zero => rfl
  | succ n ih => simpa [List.replicate_succ, allPlaceholders] using ih

theorem decodeFrame_writeFrame (addr : Addr) (value : Byte) :
    decodeFrame (writeFrame addr value) = .ok (.wrframe ((writeByte addr).extractLsb' 1 7) value) := by
  simp only [decodeFrame, writeFrame, writeByte_direction]
  rfl

theorem decodeFrame_burstFrame (addr : Addr) {n : Nat} (h1 : n ≠ 0) (h15 : n ≤ 15) :
    decodeFrame (burstFrame addr n) = .ok (if n = 1 then .rdframe ((readByte addr).extractLsb' 1 7)
      else .brdframe ((readByte addr).extractLsb' 1 7) (BitVec.ofNat 4 n)) := by
  have hshape : ¬ (allPlaceholders (List.replicate n 0) = false ∨ n = 0 ∨ maxFrame < 1 + n) := by
    simp only [allPlaceholders_replicate, maxFrame, Bool.true_eq_false, false_or]
    omega
  simp only [decodeFrame, burstFrame, readByte_direction, List.length_replicate, if_neg hshape, if_true]
  split <;> rfl

theorem wellShaped_writeFrame (addr : Addr) (value : Byte) :
    ({ kind := .writeOnly, tx := writeFrame addr value } : Request).wellShaped = true := by
  simp only [Request.wellShaped, decodeFrame_writeFrame]

theorem wellShaped_burstFrame (addr : Addr) {n : Nat} (h1 : n ≠ 0) (h15 : n ≤ 15) :
    ({ kind := .duplex, tx := burstFrame addr n } : Request).wellShaped = true := by
  simp only [Request.wellShaped, decodeFrame_burstFrame addr h1 h15]
  by_cases h : n = 1
  · simp only [if_pos h]
  · simp only [if_neg h]

theorem wellShaped_readFrame (addr : Addr) :
    ({ kind := .duplex, tx := readFrame addr } : Request).wellShaped = true :=
  wellShaped_burstFrame addr (n := 1) (by decide) (by decide)

/-- The first frame of a well-formed instruction has a shape of its own (30_encoding.md R48). -/
theorem wellShaped_request {p : Params} {i : Instr} (h : i.wellFormed p = true) : i.request.wellShaped = true := by
  cases i with
  | wr | start | wrframe => exact wellShaped_writeFrame _ _
  | rd | init | getid | rdframe => exact wellShaped_readFrame _
  | temp | accr | accn => exact wellShaped_burstFrame _ (by decide) (by decide)
  | brd addr len =>
      simp only [Instr.wellFormed, Bool.and_eq_true, bne_iff_ne] at h
      exact wellShaped_burstFrame _ (by bv_omega) (by omega)
  | brdframe addr n =>
      simp only [Instr.wellFormed, Bool.and_eq_true, bne_iff_ne] at h
      exact wellShaped_burstFrame _ (by bv_omega) (by omega)

/-- A rule waits for the answer to the frame that it has sent. -/
theorem fits_request (v : HpfVariant) (i : Instr) : (i.ret v).fits i.request = true := by
  cases i with
  | brd addr len => simp [Instr.ret, Instr.request, Ret.fits, burstFrame, Nat.add_comm]
  | _ => rfl

theorem fits_writeFrame_of_next {ret ret' : Ret} (h : ret.next = some ret') (addr : Addr) (value : Byte) :
    ret'.fits { kind := .writeOnly, tx := writeFrame addr value } = true := by
  cases ret <;> cases h <;> rfl

/-- The request that a reading rule waits for brings all the bytes that it reads (40_framer.md R73). -/
theorem reads_le_of_fits {ret : Ret} {q : Request} (h : ret.fits q = true) {x : Xrsp}
    (ha : ∀ e, x.answer q ≠ .err e) : ret.reads ≤ (x.answer q).bytes.length := by
  have hread {n : Nat} (hn : n ≤ 16) (hf : (q.kind == .duplex && q.tx.length == n) = true) :
      n ≤ (x.answer q).bytes.length := by
    simp only [Bool.and_eq_true, beq_iff_eq] at hf
    obtain ⟨hk, hl⟩ := hf
    cases hok : x.ok
    · exact absurd (by simp [Xrsp.answer, hok]) (ha x.err)
    · simp [Xrsp.answer, hok, hk, Answer.bytes, hl, hn]
  cases ret with
  | rd | initId | getid | temp | accr | accn => exact hread (by simp [Ret.reads]) h
  | brd len => exact hread (by simp only [Ret.reads]; omega) h
  | _ => exact Nat.zero_le _

/-! ### The states between frames -/

/-- No frame is open and no response is pending. -/
structure State.Quiet (s : State) : Prop where
  line : s.csN = .high
  request : s.xreq = none
  response : s.rsp = none

theorem State.Quiet.closed {s : State} (h : s.rsp = none) (q : Request) (x : Xrsp) (later : List Xrsp) :
    (s.takeAnswer q x later).closeFrame.Quiet := ⟨rfl, rfl, h⟩

/-- The operation answers a next state, whose channels are consistent. -/
def Consistent (o : Result) : Prop := ∃ t, o = .next t ∧ t.channelsOk = true

theorem consistent_next {t : State} (h : t.channelsOk = true) : Consistent (.next t) := ⟨t, rfl, h⟩

theorem channelsOk_of_idle {s : State} (hp : s.phase = .idle) (h : s.Quiet) : s.channelsOk = true := by
  simp [State.channelsOk, hp, h.line, h.request, h.response]

theorem applyReset_channelsOk (s : State) : s.applyReset.channelsOk = true := channelsOk_of_idle rfl ⟨rfl, rfl, rfl⟩

theorem taken_channelsOk {s : State} (hl : s.csN = .high) (hq : s.xreq = none) (r : Response) :
    (s.taken r).channelsOk = true := channelsOk_of_idle rfl ⟨hl, hq, rfl⟩

theorem openFrame_channelsOk {s : State} (hs : s.rsp = none) {q : Request} (hw : q.wellShaped = true) {ret : Ret}
    (hf : ret.fits q = true) : (s.openFrame q.kind q.tx ret).channelsOk = true := by
  simp [State.channelsOk, hs, hw, hf]

theorem consistent_respond {s : State} (h : s.Quiet) (r : Response) : Consistent (respond r s) := by
  rcases respond_cases r s with he | he | he <;> rw [he] <;> refine consistent_next ?_
  · exact applyReset_channelsOk _
  · exact taken_channelsOk h.line h.request r
  · simp [State.channelsOk, h.line, h.request]

/-- Waiting with `q` outstanding, when the rest of the rule is consistent from the closed frame. -/
theorem consistent_awaitAnswer {k : Answer → State → Result} {s : State} {q : Request} (hc : s.channelsOk = true)
    (hq : s.xreq = some q) (hs : s.rsp = none)
    (hk : ∀ (x : Xrsp) u, u.Quiet → u.rxBuf = (x.answer q).bytes → Consistent (k (x.answer q) u)) :
    Consistent (awaitAnswer k s) := by
  rcases awaitAnswer_cases k s with h | h | ⟨q', x, later, hq', -, h | h⟩ <;> rw [h]
  · exact consistent_next (applyReset_channelsOk s)
  · exact consistent_next hc
  · exact consistent_next (applyReset_channelsOk _)
  · cases hq.symm.trans hq'
    exact hk x _ (.closed hs q x later) rfl

theorem consistent_sendFrame {k : Answer → State → Result} {s : State} (h : s.Quiet) {q : Request}
    (hw : q.wellShaped = true) {ret : Ret} (hf : ret.fits q = true)
    (hk : ∀ (x : Xrsp) u, u.Quiet → u.rxBuf = (x.answer q).bytes → Consistent (k (x.answer q) u)) :
    Consistent (sendFrame q.kind q.tx ret k s) := by
  rcases guardReset_cases (fun s => awaitAnswer k (s.openFrame q.kind q.tx ret)) s with ⟨-, he⟩ | ⟨-, he⟩ <;>
    rw [sendFrame, he]
  · exact consistent_next (applyReset_channelsOk s)
  · exact consistent_awaitAnswer (openFrame_channelsOk h.response hw hf) rfl h.response hk

/-- The rest of a rule, with the bytes that its request brought, never stops and keeps the channels consistent. -/
theorem consistent_resumeAt (ret : Ret) {q : Request} (hf : ret.fits q = true) (x : Xrsp) {s : State} (h : s.Quiet)
    (hb : s.rxBuf = (x.answer q).bytes) : Consistent (resumeAt ret (x.answer q) s) := by
  induction ret using Ret.next_induction generalizing q x s with
  | step ret ih =>
      generalize ha : x.answer q = a at hb ⊢
      generalize ho : resumeAt ret a s = o
      cases ho ▸ resumeAt_resumes ret a s with
      | responds r => exact consistent_respond h r
      | draws r => exact consistent_respond (s := s.drawn) ⟨h.line, h.request, h.response⟩ r
      | faults f hok hlen =>
          have hreads : ret.reads ≤ (x.answer q).bytes.length := reads_le_of_fits hf (ha ▸ hok)
          rw [ha, ← hb] at hreads
          exact absurd hreads (Nat.not_le_of_lt hlen)
      | sends addr value hn =>
          have hf' := fits_writeFrame_of_next hn addr value
          exact consistent_sendFrame h (wellShaped_writeFrame addr value) hf' fun y u hu hbu => ih _ hn hf' y hu hbu
      | latches => exact consistent_respond (s := s.latch _ _ _) ⟨h.line, h.request, h.response⟩ .done
      | returns => exact consistent_next (channelsOk_of_idle rfl ⟨h.line, h.request, h.response⟩)

theorem consistent_exec {i : Instr} {s : State} (hi : i.wellFormed s.params = true) (h : s.Quiet) :
    Consistent (exec i s) := by
  rcases exec_cases i s with ⟨r, he⟩ | ⟨he, -⟩ <;> rw [he]
  · exact consistent_respond h r
  · have hf := fits_request s.params.variant i
    exact consistent_sendFrame h (wellShaped_request hi) hf fun x u hu hb => consistent_resumeAt _ hf x hu hb

/-! ### The states that a step starts from -/

theorem channelsOk_idle_iff {s : State} (hp : s.phase = .idle) : s.channelsOk = true ↔ s.Quiet := by
  refine ⟨fun h => ?_, channelsOk_of_idle hp⟩
  simp only [State.channelsOk, hp, Bool.and_eq_true, beq_iff_eq, Option.isNone_iff_eq_none] at h
  obtain ⟨⟨hl, hq⟩, hr⟩ := h
  exact ⟨hl, hq, hr⟩

theorem channelsOk_start {s : State} {i : Instr} (hp : s.phase = .busy (.start i)) (h : s.channelsOk = true) :
    s.Quiet ∧ i.wellFormed s.params = true := by
  simp only [State.channelsOk, hp, Bool.and_eq_true, beq_iff_eq, Option.isNone_iff_eq_none] at h
  obtain ⟨⟨⟨hl, hq⟩, hr⟩, hi⟩ := h
  exact ⟨⟨hl, hq, hr⟩, hi⟩

theorem channelsOk_send {s : State} (hp : s.phase = .busy .send) (h : s.channelsOk = true) :
    s.Quiet ∧ ∃ i, decodeFrame s.txBuf = .ok i := by
  simp only [State.channelsOk, hp, Bool.and_eq_true, beq_iff_eq, Option.isNone_iff_eq_none] at h
  obtain ⟨⟨⟨hl, hq⟩, hr⟩, hf⟩ := h
  refine ⟨⟨hl, hq, hr⟩, ?_⟩
  unfold isFrame at hf
  split at hf
  · exact ⟨_, ‹_›⟩
  · cases hf

theorem channelsOk_await {s : State} {ret : Ret} (hp : s.phase = .busy (.await ret)) (h : s.channelsOk = true) :
    s.rsp = none ∧ ∃ q, s.xreq = some q ∧ ret.fits q = true := by
  simp only [State.channelsOk, hp, Bool.and_eq_true, Option.isNone_iff_eq_none] at h
  obtain ⟨⟨-, hr⟩, hq⟩ := h
  refine ⟨hr, ?_⟩
  split at hq
  next q hx =>
    simp only [Bool.and_eq_true] at hq
    obtain ⟨⟨-, hf⟩, -⟩ := hq
    exact ⟨q, hx, hf⟩
  · cases hq

theorem channelsOk_respond {s : State} (hp : s.phase = .busy .respond) (h : s.channelsOk = true) :
    s.csN = .high ∧ s.xreq = none := by
  simp only [State.channelsOk, hp, Bool.and_eq_true, beq_iff_eq, Option.isNone_iff_eq_none] at h
  exact h.1

theorem State.Quiet.accept {s : State} (h : s.Quiet) (w : Word) (later : List Word) : (s.accept w later).Quiet :=
  ⟨h.line, h.request, h.response⟩

theorem State.Quiet.begin {s : State} (h : s.Quiet) (i : Instr) : (s.begin i).Quiet :=
  ⟨h.line, h.request, h.response⟩

/-- From consistent channels, every step answers a next state with consistent channels. -/
theorem consistent_step {s : State} (h : s.channelsOk = true) : Consistent (step s) := by
  cases hd : s.resetDue with
  | true => exact step_due hd ▸ consistent_next (applyReset_channelsOk s)
  | false =>
      cases hp : s.phase with
      | idle =>
          cases hc : s.cmdIn with
          | nil => exact step_idle hd hp hc ▸ consistent_next h
          | cons w later =>
              have ha := ((channelsOk_idle_iff hp).mp h).accept w later
              cases hw : decodeWord s.params w with
              | ok i => exact step_command hd hp hc hw ▸ consistent_exec (decodeWord_wellFormed hw) (ha.begin i)
              | error e => exact step_illegal hd hp hc hw ▸ consistent_respond ha _
      | busy pos =>
          cases pos with
          | start i =>
              obtain ⟨hq, hi⟩ := channelsOk_start hp h
              exact step_start hd hp ▸ consistent_exec hi hq
          | send =>
              obtain ⟨hq, i, hi⟩ := channelsOk_send hp h
              exact step_send hd hp hi ▸ consistent_exec (decodeFrame_ok hi s.params).2 hq
          | await ret =>
              obtain ⟨hr, q, hq, hf⟩ := channelsOk_await hp h
              exact step_await hd hp ▸
                consistent_awaitAnswer h hq hr fun x _ hu hb => consistent_resumeAt ret hf x hu hb
          | respond =>
              obtain ⟨hl, hq⟩ := channelsOk_respond hp h
              rw [step_respond hd hp]
              rcases deliver_cases s with he | ⟨r, -, -, he⟩ | he <;> rw [he] <;> refine consistent_next ?_
              · exact applyReset_channelsOk s
              · exact taken_channelsOk hl hq r
              · exact h

/-- Settles O51: a step from consistent channels answers a next state, and that state's channels are consistent. -/
theorem channelsStayConsistent : Obligations.ChannelsStayConsistent := by
  unfold Obligations.ChannelsStayConsistent
  refine ⟨fun s t h ht => ?_, fun s h => ?_⟩
  · obtain ⟨u, hu, hok⟩ := consistent_step h
    cases ht.symm.trans hu
    exact hok
  · obtain ⟨t, ht, -⟩ := consistent_step h
    exact ⟨t, ht⟩

end Sys2Proof.Machine

namespace Sys2Proof.Machine

/-! ## The event trace -/

/-! ### Places in the language (20_memory.md R42) -/

/-- The trace is a word of the language that ends at `b`. -/
def State.At (s : State) (b : Bracket) : Prop := bracketAfter (some .outside) s.trace = some b

theorem bracketAfter_append (b : Option Bracket) (es fs : List Event) :
    bracketAfter b (es ++ fs) = bracketAfter (bracketAfter b es) fs := by
  induction es generalizing b with
  | nil => rfl
  | cons e es ih => exact ih _

/-- One more event moves the trace on by one place. -/
theorem State.At.snoc {s t : State} {b b' : Bracket} {e : Event} (h : s.At b) (ht : t.trace = s.trace ++ [e])
    (hb : b.next e = some b') : t.At b' := by
  rw [State.At, ht, bracketAfter_append, h]
  exact hb

theorem State.traceOk_iff {s : State} : s.traceOk = true ↔ s.phase.commanded = true ∧ s.At s.phase.bracket := by
  simp only [State.traceOk, Bool.and_eq_true, beq_iff_eq, State.At]

theorem Phase.commanded_await_iff {ret : Ret} : (Phase.busy (.await ret)).commanded = true ↔ ret ≠ .alone :=
  bne_iff_ne

/-- RESET leads from every place of the language to the outside. -/
theorem State.At.applyReset {s : State} {b : Bracket} (h : s.At b) : s.applyReset.traceOk = true :=
  State.traceOk_iff.mpr ⟨rfl, h.snoc (State.applyReset_trace s) (by cases b <;> rfl)⟩

/-! ### The shared operations -/

theorem traceOk_respond {s : State} (h : s.At .inside) (r : Response) :
    Ends (·.traceOk = true) (respond r s) := by
  have ho : (s.offer r).At .inside := h
  rcases respond_cases r s with he | he | he <;> rw [he] <;> refine ends_next ?_
  · exact ho.applyReset
  · exact State.traceOk_iff.mpr ⟨rfl, ho.snoc (State.taken_trace ..) rfl⟩
  · exact State.traceOk_iff.mpr ⟨rfl, ho⟩

/-- The answer closes the open bracket with one XFER in it. -/
theorem traceOk_awaitAnswer {ret : Ret} {k : Answer → State → Result} {s : State}
    (hk : ∀ a u, u.At .inside → Ends (·.traceOk = true) (k a u))
    (hp : s.phase = .busy (.await ret)) (hs : s.traceOk = true) :
    Ends (·.traceOk = true) (awaitAnswer k s) := by
  have hopen : s.At (Phase.busy (.await ret)).bracket := hp ▸ (State.traceOk_iff.mp hs).2
  have hmoved (q x later) : (s.takeAnswer q x later).At .moved := hopen.snoc (State.takeAnswer_trace ..) rfl
  rcases awaitAnswer_cases k s with h | h | ⟨q, x, later, -, -, h | h⟩ <;> rw [h]
  · exact ends_next hopen.applyReset
  · exact ends_next hs
  · exact ends_next (hmoved q x later).applyReset
  · exact hk _ _ ((hmoved q x later).snoc (State.closeFrame_trace _) rfl)

/-- A frame of a rule opens a bracket where none is open. -/
theorem traceOk_sendFrame {ret : Ret} (hr : ret ≠ .alone) {k : Answer → State → Result}
    (hk : ∀ a u, u.At .inside → Ends (·.traceOk = true) (k a u)) (kind : Kind) (tx : List Byte) {s : State}
    (h : s.At .inside) : Ends (·.traceOk = true) (sendFrame kind tx ret k s) := by
  rcases guardReset_cases (fun s => awaitAnswer k (s.openFrame kind tx ret)) s with ⟨-, he⟩ | ⟨-, he⟩ <;>
    rw [sendFrame, he]
  · exact ends_next h.applyReset
  · have hopen : (s.openFrame kind tx ret).At .opened := h.snoc (State.openFrame_trace ..) rfl
    exact traceOk_awaitAnswer hk rfl (State.traceOk_iff.mpr ⟨Phase.commanded_await_iff.mpr hr, hopen⟩)

/-! ### The rules -/

theorem Ret.ne_alone_of_next {ret ret' : Ret} (h : ret.next = some ret') : ret' ≠ .alone := by
  cases ret <;> cases h <;> nofun

theorem ret_ne_alone_of_isCommand {i : Instr} (h : i.isCommand = true) (v : HpfVariant) : i.ret v ≠ .alone := by
  cases i with
  | wrframe | rdframe | brdframe => cases h
  | _ => nofun

/-- The rest of a command's rule, from a closed bracket. -/
theorem traceOk_resumeAt {ret : Ret} (hr : ret ≠ .alone) (a : Answer) {s : State} (h : s.At .inside) :
    Ends (·.traceOk = true) (resumeAt ret a s) := by
  induction ret using Ret.next_induction generalizing a s with
  | step ret ih =>
      generalize ho : resumeAt ret a s = o
      cases ho ▸ resumeAt_resumes ret a s with
      | responds r => exact traceOk_respond h r
      | draws r => exact traceOk_respond (s := s.drawn) h r
      | faults f => exact ends_fault f
      | sends addr value hn =>
          have hr' := Ret.ne_alone_of_next hn
          exact traceOk_sendFrame hr' (fun b u hu => ih _ hn hr' b hu) _ _ h
      | latches => exact traceOk_respond (s := s.latch _ _ _) h .done
      | returns => exact absurd rfl hr

theorem traceOk_exec {i : Instr} (hi : i.isCommand = true) {s : State} (h : s.At .inside) :
    Ends (·.traceOk = true) (exec i s) := by
  rcases exec_cases i s with ⟨r, he⟩ | ⟨he, -⟩ <;> rw [he]
  · exact traceOk_respond h r
  · have hr := ret_ne_alone_of_isCommand hi s.params.variant
    exact traceOk_sendFrame hr (fun a u hu => traceOk_resumeAt hr a hu) _ _ h

theorem decodeWord_isCommand {p : Params} {w : Word} {i : Instr} (h : decodeWord p w = .ok i) :
    i.isCommand = true := by
  unfold decodeWord at h
  split at h
  iterate 3 · obtain ⟨_, _, _, rfl, -⟩ := decodeA_ok h; rfl
  · simp only [decodeI] at h
    split_ifs at h
    exact Except.ok.inj h ▸ rfl
  iterate 5 · rw [decodeZ_ok h]; rfl
  · exact nomatch h

/-! ### The step -/

/-- Settles O52: each thing that a step can find is in a place of the language from which the events of its rule
follow, and RESET is allowed in every place. -/
theorem traceStaysWellFormed : Obligations.TraceStaysWellFormed := by
  unfold Obligations.TraceStaysWellFormed
  intro s t h
  obtain ⟨hcommanded, hat⟩ := State.traceOk_iff.mp h
  suffices hends : Ends (·.traceOk = true) (step s) from hends t
  cases hd : s.resetDue with
  | true => exact step_due hd ▸ ends_next hat.applyReset
  | false =>
      cases hp : s.phase with
      | idle =>
          cases hc : s.cmdIn with
          | nil => exact step_idle hd hp hc ▸ ends_next h
          | cons w later =>
              rw [hp] at hat
              have ha : (s.accept w later).At .inside := hat.snoc (e := .cmd w) rfl rfl
              cases hw : decodeWord s.params w with
              | ok i => exact step_command hd hp hc hw ▸ traceOk_exec (decodeWord_isCommand hw) ha
              | error e => exact step_illegal hd hp hc hw ▸ traceOk_respond ha _
      | busy pos =>
          rw [hp] at hcommanded hat
          cases pos with
          | start i => exact step_start hd hp ▸ traceOk_exec hcommanded hat
          | send => cases hcommanded
          | await ret =>
              have hr : ret ≠ .alone := Phase.commanded_await_iff.mp hcommanded
              exact step_await hd hp ▸ traceOk_awaitAnswer (fun a u hu => traceOk_resumeAt hr a hu) hp h
          | respond =>
              rw [step_respond hd hp]
              rcases deliver_cases s with he | ⟨r, -, -, he⟩ | he <;> rw [he] <;> refine ends_next ?_
              · exact hat.applyReset
              · exact State.traceOk_iff.mpr ⟨rfl, hat.snoc (State.taken_trace ..) rfl⟩
              · exact h

end Sys2Proof.Machine

namespace Sys2Proof.Machine

/-! ## What an instruction leaves of its inputs -/

/-- From `s` to `t` the parameters and the host's inputs stand, answers have at most been taken, the trace has at most
grown, and at most `n` values have been drawn. -/
structure State.Keeps (n : Nat) (s t : State) : Prop where
  params : t.params = s.params
  cmdIn : t.cmdIn = s.cmdIn
  rspReady : t.rspReady = s.rspReady
  xrspIn : t.xrspIn <:+ s.xrspIn
  trace : s.trace <+: t.trace
  draws_le : s.draws ≤ t.draws
  le_draws : t.draws ≤ s.draws + n

theorem State.Keeps.trans {m n : Nat} {s t u : State} (h : s.Keeps m t) (h' : t.Keeps n u) : s.Keeps (m + n) u where
  params := h'.params.trans h.params
  cmdIn := h'.cmdIn.trans h.cmdIn
  rspReady := h'.rspReady.trans h.rspReady
  xrspIn := h'.xrspIn.trans h.xrspIn
  trace := h.trace.trans h'.trace
  draws_le := h.draws_le.trans h'.draws_le
  le_draws := by have := h.le_draws; have := h'.le_draws; omega

theorem State.Keeps.mono {m n : Nat} {s t : State} (h : s.Keeps m t) (hmn : m ≤ n) : s.Keeps n t :=
  { h with le_draws := h.le_draws.trans (Nat.add_le_add_left hmn _) }

theorem State.Keeps.refl (s : State) : s.Keeps 0 s :=
  ⟨rfl, rfl, rfl, List.suffix_rfl, List.prefix_rfl, le_rfl, le_rfl⟩

theorem State.Keeps.applyReset (s : State) : s.Keeps 0 s.applyReset :=
  ⟨rfl, rfl, rfl, List.suffix_rfl, List.prefix_append .., le_rfl, le_rfl⟩

theorem State.Keeps.taken (s : State) (r : Response) : s.Keeps 0 (s.taken r) :=
  ⟨rfl, rfl, rfl, List.suffix_rfl, List.prefix_append .., le_rfl, le_rfl⟩

theorem State.Keeps.openFrame (s : State) (kind : Kind) (tx : List Byte) (ret : Ret) :
    s.Keeps 0 (s.openFrame kind tx ret) :=
  ⟨rfl, rfl, rfl, List.suffix_rfl, List.prefix_append .., le_rfl, le_rfl⟩

/-- The answers that are left after a transfer are the last ones of those that were there. -/
theorem State.Keeps.takeAnswer {s : State} {x : Xrsp} {later : List Xrsp} (h : s.live = x :: later) (q : Request) :
    s.Keeps 0 (s.takeAnswer q x later) where
  params := rfl
  cmdIn := rfl
  rspReady := rfl
  xrspIn := ((List.suffix_cons x later).trans (h ▸ List.suffix_rfl)).trans (List.drop_suffix s.stale s.xrspIn)
  trace := List.prefix_append ..
  draws_le := le_rfl
  le_draws := le_rfl

theorem State.Keeps.closeFrame (s : State) : s.Keeps 0 s.closeFrame :=
  ⟨rfl, rfl, rfl, List.suffix_rfl, List.prefix_append .., le_rfl, le_rfl⟩

theorem State.Keeps.offer (s : State) (r : Response) : s.Keeps 0 (s.offer r) := { refl s with }

theorem State.Keeps.latch (s : State) (r : BitVec 2) (o : BitVec 4) (h : BitVec 3) : s.Keeps 0 (s.latch r o h) :=
  { refl s with }

theorem State.Keeps.frameDone (s : State) : s.Keeps 0 s.frameDone := { refl s with }

theorem State.Keeps.drawn (s : State) : s.Keeps 1 s.drawn :=
  ⟨rfl, rfl, rfl, List.suffix_rfl, List.prefix_rfl, Nat.le_succ _, le_rfl⟩

/-- The operation answers a next state that keeps what there was, with at most `n` draws. -/
def Answers (n : Nat) (s : State) (o : Result) : Prop := ∃ t, o = .next t ∧ s.Keeps n t

theorem answers_next {n : Nat} {s t : State} (h : s.Keeps 0 t) : Answers n s (.next t) := ⟨t, rfl, h.mono n.zero_le⟩

theorem Answers.of_keeps {m n : Nat} {s u : State} {o : Result} (h : s.Keeps m u) :
    Answers n u o → Answers (m + n) s o
  | ⟨t, ho, ht⟩ => ⟨t, ho, h.trans ht⟩

theorem Answers.of_keeps_zero {n : Nat} {s u : State} {o : Result} (h : s.Keeps 0 u) (ho : Answers n u o) :
    Answers n s o := n.zero_add ▸ ho.of_keeps h

theorem answers_respond (n : Nat) (r : Response) (s : State) : Answers n s (respond r s) := by
  have ho := State.Keeps.offer s r
  rcases respond_cases r s with h | h | h <;> rw [h]
  · exact answers_next (ho.trans (.applyReset _))
  · exact answers_next (ho.trans (.taken _ r))
  · exact answers_next ho

/-- A frame never stops, when the rest of the rule does not with the bytes that the frame brings. -/
theorem answers_sendFrame {n : Nat} {k : Answer → State → Result} (q : Request)
    (hk : ∀ (x : Xrsp) u, u.rxBuf = (x.answer q).bytes → Answers n u (k (x.answer q) u)) (ret : Ret) (s : State) :
    Answers n s (sendFrame q.kind q.tx ret k s) := by
  have ho := State.Keeps.openFrame s q.kind q.tx ret
  rcases sendFrame_cases q.kind q.tx ret k s with h | h | h | ⟨x, later, hx, h⟩
  · exact h ▸ answers_next (.applyReset s)
  · exact h ▸ answers_next (ho.trans (.applyReset _))
  · exact h ▸ answers_next ho
  · have ht := ho.trans (.takeAnswer (s := s.openFrame q.kind q.tx ret) hx q)
    rcases h with h | h <;> rw [h]
    · exact answers_next (ht.trans (.applyReset _))
    · exact (hk x _ rfl).of_keeps_zero (ht.trans (.closeFrame _))

/-- How many values the rest of a rule draws at most (41_driver_ops.md R79). -/
def Ret.draws : Ret → Nat
  | .getid => 1
  | _ => 0

theorem Ret.draws_of_next {ret ret' : Ret} (h : ret.next = some ret') : ret'.draws = ret.draws := by
  cases ret <;> cases h <;> rfl

/-- The rest of a rule, with the bytes that its request brought, answers a next state. -/
theorem answers_resumeAt (ret : Ret) {q : Request} (hf : ret.fits q = true) (x : Xrsp) {s : State}
    (hb : s.rxBuf = (x.answer q).bytes) : Answers ret.draws s (resumeAt ret (x.answer q) s) := by
  induction ret using Ret.next_induction generalizing q x s with
  | step ret ih =>
      generalize ha : x.answer q = a at hb ⊢
      generalize ho : resumeAt ret a s = o
      cases ho ▸ resumeAt_resumes ret a s with
      | responds r => exact answers_respond _ r s
      | draws r => exact (answers_respond 0 r s.drawn).of_keeps (.drawn s)
      | faults f hok hlen =>
          have hreads : ret.reads ≤ (x.answer q).bytes.length := reads_le_of_fits hf (ha ▸ hok)
          rw [ha, ← hb] at hreads
          exact absurd hreads (Nat.not_le_of_lt hlen)
      | sends addr value hn =>
          rw [← Ret.draws_of_next hn]
          exact answers_sendFrame _ (fun y _ hbu => ih _ hn (fits_writeFrame_of_next hn addr value) y hbu) _ s
      | latches => exact (answers_respond _ .done _).of_keeps_zero (.latch s ..)
      | returns => exact answers_next (.frameDone s)

theorem answers_exec (i : Instr) (s : State) : Answers (i.ret s.params.variant).draws s (exec i s) := by
  rcases exec_cases i s with ⟨r, he⟩ | ⟨he, -⟩ <;> rw [he]
  · exact answers_respond _ r s
  · exact answers_sendFrame _ (fun x _ hb => answers_resumeAt _ (fits_request _ i) x hb) _ s

theorem draws_ret_le (v : HpfVariant) (i : Instr) : (i.ret v).draws ≤ 1 := by
  cases i <;> simp [Instr.ret, Ret.draws]

theorem draws_ret_of_ne_getid {i : Instr} (h : i ≠ .getid) (v : HpfVariant) : (i.ret v).draws = 0 := by
  cases i with
  | getid => exact absurd rfl h
  | _ => rfl

/-- Settles O48: every instruction responds at once or sends a frame whose bytes are all that the rest of its rule
reads, and only the rest of GETID draws a value. -/
theorem execLeavesInputs : Obligations.ExecLeavesInputs := by
  unfold Obligations.ExecLeavesInputs
  intro i s
  obtain ⟨t, ht, hk⟩ := answers_exec i s
  refine ⟨t, ht, hk.params, hk.cmdIn, hk.rspReady, hk.xrspIn, hk.trace, hk.draws_le,
    (hk.mono (draws_ret_le _ i)).le_draws, fun hi => ?_⟩
  rw [draws_ret_of_ne_getid hi] at hk
  exact Nat.le_antisymm hk.le_draws hk.draws_le

/-- Settles O24: with no RESET coming, accepting the word leaves the RESET inputs as they were. -/
theorem stepRunsDecodedCommand : Obligations.StepRunsDecodedCommand := by
  unfold Obligations.StepRunsDecodedCommand
  intro s w later i hp hr hc hd
  have hstart : (s.accept w later).begin i = { s with
      phase := .busy (.start i), cmdIn := later, txBuf := [], rxBuf := [], trace := s.trace ++ [.cmd w] } := by
    simp [State.begin, State.accept, State.record, hr]
  rw [step_command (resetDue_of_none hr) hp hc hd, hstart]

end Sys2Proof.Machine

namespace Sys2Proof.Machine

/-! ## Address bytes and frames -/

/-! ### The address byte (30_encoding.md R49) -/

/-- Bit 0 is the direction, and the bits above it are the address. -/
theorem getLsbD_encodeAddressByte (addr : Addr) (read : Bool) (i : Nat) :
    (encodeAddressByte addr read).getLsbD i = if i = 0 then read else addr.getLsbD (i - 1) := by
  refine BitVec.getLsbD_append.trans ?_
  cases i <;> simp

/-- The two ways to put an address byte together, by shift (R49) and by append, are one. -/
theorem shiftLeft_or_direction (addr : Addr) (read : Bool) :
    addr.setWidth 8 <<< 1 ||| (BitVec.ofBool read).setWidth 8 = encodeAddressByte addr read := by
  refine BitVec.eq_of_getLsbD_eq fun i hi => ?_
  rw [getLsbD_encodeAddressByte]
  cases i <;> simp [hi]

theorem writeByte_eq (addr : Addr) : writeByte addr = encodeAddressByte addr false := by
  simp [← shiftLeft_or_direction, writeByte]

theorem readByte_eq (addr : Addr) : readByte addr = encodeAddressByte addr true :=
  shiftLeft_or_direction addr true

/-- Every byte is the address byte of its own bits. -/
theorem encodeAddressByte_of_direction {b : Byte} {read : Bool} (h : b.getLsbD 0 = read) :
    encodeAddressByte (b.extractLsb' 1 7) read = b := by
  refine BitVec.eq_of_getLsbD_eq fun i hi => ?_
  rw [getLsbD_encodeAddressByte]
  cases i with
  | zero => exact h.symm
  | succ i =>
      have hi7 : i < 7 := by omega
      simp [hi7, Nat.add_comm]

/-- Settles O1: both shifts append the direction bit, and every byte is the address byte of its own bits. -/
theorem addressByteLayout : Obligations.AddressByteLayout := by
  unfold Obligations.AddressByteLayout
  refine fun addr b => ⟨writeByte_eq addr, readByte_eq addr, ?_⟩
  split
  next h => rw [readByte_eq, encodeAddressByte_of_direction h]
  next h => rw [writeByte_eq, encodeAddressByte_of_direction (Bool.eq_false_of_not_eq_true h)]

/-! ### The frame that an instruction sends (30_encoding.md R48) -/

theorem replicate_of_allPlaceholders {bytes : List Byte} (h : allPlaceholders bytes = true) :
    List.replicate bytes.length 0 = bytes := by
  induction bytes with
  | nil => rfl
  | cons b bs ih =>
      simp only [allPlaceholders, Bool.and_eq_true, beq_iff_eq] at h
      obtain ⟨rfl, hbs⟩ := h
      simp only [List.length_cons, List.replicate_succ, ih hbs]

theorem encode_of_decodeFrame {bytes : List Byte} {i : Instr} (h : decodeFrame bytes = .ok i) :
    encode i = .frame bytes := by
  cases bytes with
  | nil => exact nomatch h
  | cons a rest =>
      simp only [decodeFrame] at h
      split_ifs at h with hread hshape hone
      · simp only [not_or, Bool.not_eq_false] at hshape
        obtain ⟨hzeros, -⟩ := hshape
        have hrest : rest = [0] := by rw [← replicate_of_allPlaceholders hzeros, hone]; rfl
        rw [← Except.ok.inj h, encode, encodeAddressByte_of_direction hread, hrest]
      · simp only [not_or, Bool.not_eq_false, not_lt, maxFrame] at hshape
        obtain ⟨hzeros, -, hmax⟩ := hshape
        have hn : (BitVec.ofNat 4 rest.length).toNat = rest.length :=
          BitVec.toNat_ofNat .. ▸ Nat.mod_eq_of_lt (by omega)
        rw [← Except.ok.inj h, encode, encodeAddressByte_of_direction hread, hn,
          replicate_of_allPlaceholders hzeros]
      · split at h
        · rw [← Except.ok.inj h, encode, encodeAddressByte_of_direction (Bool.eq_false_of_not_eq_true hread)]
        · exact nomatch h

/-- Settles O4: the address byte is put together from its own bits, and the rest of the frame is what the shape says. -/
theorem decodedFrameIsEncoded : Obligations.DecodedFrameIsEncoded := by
  unfold Obligations.DecodedFrameIsEncoded
  intro p bytes i h
  obtain ⟨hcommand, hwf⟩ := decodeFrame_ok h p
  exact ⟨encode_of_decodeFrame h, hwf, hcommand⟩

end Sys2Proof.Machine

namespace Sys2Proof.Machine

/-! ## The frames in the trace -/

/-! ### A well-shaped request is answered in its form (40_framer.md R73) -/

theorem length_le_of_decodeFrame {bytes : List Byte} {i : Instr} (h : decodeFrame bytes = .ok i) :
    bytes.length ≤ maxFrame := by
  have hcode := encode_of_decodeFrame h
  have hcommand := (decodeFrame_ok h .reference).1
  cases i with
  | wrframe | rdframe =>
      cases hcode
      simp [maxFrame]
  | brdframe addr n =>
      cases hcode
      simp only [List.length_cons, List.length_replicate, maxFrame]
      omega
  | _ => cases hcommand

theorem Request.length_le_of_wellShaped {q : Request} (h : q.wellShaped = true) : q.tx.length ≤ maxFrame := by
  unfold Request.wellShaped at h
  split at h
  next hd => exact length_le_of_decodeFrame hd
  next hd => exact length_le_of_decodeFrame hd
  next hd => exact length_le_of_decodeFrame hd
  · cases h

/-- XRSP holds enough bytes for every frame, so that the answer to a read is as long as its frame. -/
theorem answerFits_answer {q : Request} (h : q.wellShaped = true) (x : Xrsp) : answerFits q (x.answer q) = true := by
  have hlen : q.tx.length ≤ 16 := Request.length_le_of_wellShaped h
  cases hok : x.ok
  · simp [Xrsp.answer, hok, answerFits]
  · cases hk : q.kind <;> simp [Xrsp.answer, hok, hk, answerFits, hlen]

theorem frameOk_xfer {q : Request} (h : q.wellShaped = true) (x : Xrsp) :
    (Event.xfer q.kind q.tx (x.answer q)).frameOk = true := Bool.and_eq_true_iff.mpr ⟨h, answerFits_answer h x⟩

/-! ### The shared operations -/

/-- Every frame sent so far was one of the three shapes, answered in its form. -/
def State.FramesSent (s : State) : Prop := s.trace.all Event.frameOk = true

theorem State.framesOk_iff {s : State} : s.framesOk = true ↔ s.channelsOk = true ∧ s.FramesSent := Bool.and_eq_true_iff

theorem State.FramesSent.snoc {s t : State} {e : Event} (h : s.FramesSent) (ht : t.trace = s.trace ++ [e])
    (he : e.frameOk = true) : t.FramesSent := by
  rw [State.FramesSent] at h
  simp [State.FramesSent, ht, h, he]

theorem State.FramesSent.applyReset {s : State} (h : s.FramesSent) : s.applyReset.FramesSent :=
  h.snoc (State.applyReset_trace s) rfl

theorem State.FramesSent.taken {s : State} (h : s.FramesSent) (r : Response) : (s.taken r).FramesSent :=
  h.snoc (State.taken_trace s r) rfl

theorem framesSent_respond {s : State} (h : s.FramesSent) (r : Response) :
    Ends State.FramesSent (respond r s) := by
  have ho : (s.offer r).FramesSent := h
  rcases respond_cases r s with he | he | he <;> rw [he] <;> refine ends_next ?_
  · exact ho.applyReset
  · exact ho.taken r
  · exact ho

/-- The answer to a well-shaped request is recorded in its form. -/
theorem framesSent_awaitAnswer {k : Answer → State → Result}
    (hk : ∀ a u, u.FramesSent → Ends State.FramesSent (k a u)) {s : State} {q : Request} (hq : s.xreq = some q)
    (hw : q.wellShaped = true) (h : s.FramesSent) : Ends State.FramesSent (awaitAnswer k s) := by
  have htake (x later) : (s.takeAnswer q x later).FramesSent :=
    h.snoc (State.takeAnswer_trace ..) (frameOk_xfer hw x)
  rcases awaitAnswer_cases k s with he | he | ⟨q', x, later, hq', -, he⟩
  · exact he ▸ ends_next h.applyReset
  · exact he ▸ ends_next h
  · cases hq.symm.trans hq'
    rcases he with he | he <;> rw [he]
    · exact ends_next (htake x later).applyReset
    · exact hk _ _ ((htake x later).snoc (State.closeFrame_trace _) rfl)

theorem framesSent_sendFrame {k : Answer → State → Result}
    (hk : ∀ a u, u.FramesSent → Ends State.FramesSent (k a u)) {q : Request} (hw : q.wellShaped = true) (ret : Ret)
    {s : State} (h : s.FramesSent) : Ends State.FramesSent (sendFrame q.kind q.tx ret k s) := by
  rcases guardReset_cases (fun s => awaitAnswer k (s.openFrame q.kind q.tx ret)) s with ⟨-, he⟩ | ⟨-, he⟩ <;>
    rw [sendFrame, he]
  · exact ends_next h.applyReset
  · exact framesSent_awaitAnswer hk rfl hw (h.snoc (State.openFrame_trace ..) rfl)

/-! ### The rules -/

theorem framesSent_resumeAt (ret : Ret) (a : Answer) {s : State} (h : s.FramesSent) :
    Ends State.FramesSent (resumeAt ret a s) := by
  induction ret using Ret.next_induction generalizing a s with
  | step ret ih =>
      generalize ho : resumeAt ret a s = o
      cases ho ▸ resumeAt_resumes ret a s with
      | responds r => exact framesSent_respond h r
      | draws r => exact framesSent_respond (s := s.drawn) h r
      | faults f => exact ends_fault f
      | sends addr value hn =>
          exact framesSent_sendFrame (fun b u hu => ih _ hn b hu) (wellShaped_writeFrame addr value) _ h
      | latches => exact framesSent_respond (s := s.latch _ _ _) h .done
      | returns => exact ends_next h

theorem framesSent_exec {i : Instr} {s : State} (hi : i.wellFormed s.params = true) (h : s.FramesSent) :
    Ends State.FramesSent (exec i s) := by
  rcases exec_cases i s with ⟨r, he⟩ | ⟨he, -⟩ <;> rw [he]
  · exact framesSent_respond h r
  · exact framesSent_sendFrame (fun a u hu => framesSent_resumeAt _ a hu) (wellShaped_request hi) _ h

/-! ### The step -/

theorem channelsOk_await_wellShaped {s : State} {ret : Ret} (hp : s.phase = .busy (.await ret))
    (h : s.channelsOk = true) : ∃ q, s.xreq = some q ∧ q.wellShaped = true := by
  obtain ⟨-, q, hq, -⟩ := channelsOk_await hp h
  simp only [State.channelsOk, hp, hq, Bool.and_eq_true] at h
  obtain ⟨-, ⟨hw, -⟩, -⟩ := h
  exact ⟨q, hq, hw⟩

/-- A step sends the frame of a well-formed instruction, or waits for the answer to a well-shaped request. -/
theorem framesSent_step {s : State} (hc : s.channelsOk = true) (h : s.FramesSent) :
    Ends State.FramesSent (step s) := by
  cases hd : s.resetDue with
  | true => exact step_due hd ▸ ends_next h.applyReset
  | false =>
      cases hp : s.phase with
      | idle =>
          cases hcmd : s.cmdIn with
          | nil => exact step_idle hd hp hcmd ▸ ends_next h
          | cons w later =>
              have ha : (s.accept w later).FramesSent := h.snoc (State.accept_trace ..) rfl
              cases hw : decodeWord s.params w with
              | ok i => exact step_command hd hp hcmd hw ▸ framesSent_exec (decodeWord_wellFormed hw) ha
              | error e => exact step_illegal hd hp hcmd hw ▸ framesSent_respond ha _
      | busy pos =>
          cases pos with
          | start i => exact step_start hd hp ▸ framesSent_exec (channelsOk_start hp hc).2 h
          | send =>
              obtain ⟨-, i, hi⟩ := channelsOk_send hp hc
              exact step_send hd hp hi ▸ framesSent_exec (decodeFrame_ok hi s.params).2 h
          | await ret =>
              obtain ⟨q, hq, hw⟩ := channelsOk_await_wellShaped hp hc
              exact step_await hd hp ▸ framesSent_awaitAnswer (fun a u hu => framesSent_resumeAt ret a hu) hq hw h
          | respond =>
              rw [step_respond hd hp]
              rcases deliver_cases s with he | ⟨r, -, -, he⟩ | he <;> rw [he] <;> refine ends_next ?_
              · exact h.applyReset
              · exact h.taken r
              · exact h

/-- Settles O53: the channels stay consistent, and from consistent channels a step records only transfers of
well-shaped requests, each with the answer that XRSP carries for it. -/
theorem framesStayWellShaped : Obligations.FramesStayWellShaped := by
  unfold Obligations.FramesStayWellShaped
  intro s t h ht
  obtain ⟨hc, hf⟩ := State.framesOk_iff.mp h
  exact State.framesOk_iff.mpr ⟨channelsStayConsistent.1 s t hc ht, framesSent_step hc hf t ht⟩

end Sys2Proof.Machine

namespace Sys2Proof.Machine

/-! ## Illegal words -/

/-- A check that refuses, and the checks after it. -/
theorem exists_ite_error_iff {ε α : Type} {c : Prop} [Decidable c] {e : ε} {o : Except ε α} :
    (∃ r, (if c then .error e else o) = .error r) ↔ c ∨ ∃ r, o = .error r := by
  by_cases hc : c <;> simp [hc]

theorem decodeA_error_iff {m : BitVec 4} {w : Word} {usesData usesLen : Bool}
    {build : Addr → Byte → BitVec 4 → Instr} :
    (∃ r, decodeA m w usesData usesLen build = .error r) ↔
      (w.extractLsb' 23 5 ≠ 0 ∨ w.extractLsb' 4 4 ≠ 0) ∨ (usesData = false ∧ w.extractLsb' 8 8 ≠ 0) ∨
      (usesLen = false ∧ w.extractLsb' 0 4 ≠ 0) ∨
      (usesLen = true ∧ (w.extractLsb' 0 4 = 0 ∨ m.toNat < (w.extractLsb' 0 4).toNat)) := by
  simp only [decodeA, exists_ite_error_iff, reduceCtorEq, exists_false, or_false]

theorem decodeZ_error_iff {w : Word} {i : Instr} :
    (∃ r, decodeZ w i = .error r) ↔ w.extractLsb' 0 28 ≠ 0 := by
  simp only [decodeZ, exists_ite_error_iff, reduceCtorEq, exists_false, or_false]

/-- 30_encoding.md R66: the decoder refuses exactly the words of the nine items, opcode by opcode. -/
theorem decodeWord_error_iff (p : Params) (w : Word) :
    (∃ r, decodeWord p w = .error r) ↔ IllegalWord p w := by
  unfold decodeWord
  split
  iterate 3
    next hop => simp [decodeA_error_iff, IllegalWord, hop]
  next hop =>
    simp only [decodeI, exists_ite_error_iff, reduceCtorEq, exists_false, or_false]
    simp [IllegalWord, hop]
  iterate 5
    next hop => simp [decodeZ_error_iff, IllegalWord, hop]
  next =>
    simp only [imp_false] at *
    have hop : (w.extractLsb' 28 4).toNat = 0 ∨ 0xA ≤ (w.extractLsb' 28 4).toNat := by omega
    exact iff_of_true ⟨_, rfl⟩ (hop.imp_right .inl)

theorem decodeWord_ok_of_legal {p : Params} {w : Word} (h : ¬ IllegalWord p w) : ∃ i, decodeWord p w = .ok i := by
  cases hd : decodeWord p w with
  | ok i => exact ⟨i, rfl⟩
  | error r => exact absurd ((decodeWord_error_iff p w).mp ⟨r, hd⟩) h

/-- Settles O26: the decoder refuses the word, whose response is taken at once, or gives the instruction that runs. -/
theorem illegalWordAnswered : Obligations.IllegalWordAnswered := by
  unfold Obligations.IllegalWordAnswered
  intro s w later hp hcalm hc
  obtain ⟨hr, hy⟩ := hcalm
  refine ⟨fun hill => ?_, fun hlegal => ?_⟩
  · obtain ⟨e, he⟩ := (decodeWord_error_iff s.params w).mpr hill
    have hcalm' : (s.accept w later).Calm := ⟨by simp [hr], hy⟩
    rw [step_illegal (resetDue_of_none hr) hp hc he, raise_eq_respond, respond_endedAtOnce hcalm']
    simp [State.endedAtOnce, State.accept, State.record, hp, hr, Response.illegalCommand]
  · obtain ⟨i, hi⟩ := decodeWord_ok_of_legal hlegal
    exact ⟨i, hi, stepRunsDecodedCommand s w later i hp hr hc hi⟩

end Sys2Proof.Machine

namespace Sys2Proof.Machine

/-! ## The raw framing commands (40_framer.md) -/

/-! ### The settings (R74) -/

theorem codes_eq_none_of_ne_init {i : Instr} (h : ∀ rset rcode oset ocode hset hcode,
    i ≠ .init rset rcode oset ocode hset hcode) (s : State) : i.codes s = none := by
  refine Option.eq_none_iff_forall_ne_some.mpr fun c hc => ?_
  obtain ⟨_, _, _, _, _, _, hi⟩ := isInit_of_codes hc
  exact h _ _ _ _ _ _ hi

/-- Settles O47: an instruction that is not INIT has no codes to latch. -/
theorem onlyInitWritesSettings : Obligations.OnlyInitWritesSettings := by
  unfold Obligations.OnlyInitWritesSettings
  intro i s t _ hi ht
  exact (leaves_exec i s t ht).settings_of_none (codes_eq_none_of_ne_init hi s)

/-! ### The words of format A (30_encoding.md R62) -/

section
variable {op : BitVec 4} {addr : Addr} {data : Byte} {len : BitVec 4}

/-- A bit field of a format A word, by arithmetic on the sum that makes up the word. -/
theorem extractLsb'_encodeA {start n : Nat} {b : BitVec n}
    (h : (op.toNat * 2 ^ 28 + addr.toNat * 2 ^ 16 + data.toNat * 2 ^ 8 + len.toNat) / 2 ^ start % 2 ^ n = b.toNat) :
    (encodeA op addr data len).extractLsb' start n = b := by
  have hsum : (encodeA op addr data len).toNat =
      op.toNat * 2 ^ 28 + addr.toNat * 2 ^ 16 + data.toNat * 2 ^ 8 + len.toNat :=
    BitVec.toNat_ofNat .. ▸ Nat.mod_eq_of_lt (by omega)
  refine BitVec.eq_of_toNat_eq ?_
  rw [BitVec.extractLsb'_toNat, Nat.shiftRight_eq_div_pow, hsum, h]

@[simp] theorem encodeA_op : (encodeA op addr data len).extractLsb' 28 4 = op := extractLsb'_encodeA (by omega)
@[simp] theorem encodeA_addr : (encodeA op addr data len).extractLsb' 16 7 = addr := extractLsb'_encodeA (by omega)
@[simp] theorem encodeA_data : (encodeA op addr data len).extractLsb' 8 8 = data := extractLsb'_encodeA (by omega)
@[simp] theorem encodeA_len : (encodeA op addr data len).extractLsb' 0 4 = len := extractLsb'_encodeA (by omega)

@[simp] theorem encodeA_reserved_high : (encodeA op addr data len).extractLsb' 23 5 = 0 :=
  extractLsb'_encodeA (b := 0#5) (by rw [BitVec.toNat_zero]; omega)

@[simp] theorem encodeA_reserved_low : (encodeA op addr data len).extractLsb' 4 4 = 0 :=
  extractLsb'_encodeA (b := 0#4) (by rw [BitVec.toNat_zero]; omega)

/-- A format A word whose unused fields are 0 is refused only for its length (R66 item 4). -/
theorem decodeA_encodeA {m : BitVec 4} {usesData usesLen : Bool} (build : Addr → Byte → BitVec 4 → Instr)
    (hd : usesData = true ∨ data = 0) (hl : usesLen = true ∨ len = 0) :
    decodeA m (encodeA op addr data len) usesData usesLen build =
      if usesLen = true ∧ (len = 0 ∨ m.toNat < len.toNat) then .error .badLength else .ok (build addr data len) := by
  have hdata : ¬ (usesData = false ∧ data ≠ 0) := by simpa [imp_iff_not_or] using hd
  have hlen : ¬ (usesLen = false ∧ len ≠ 0) := by simpa [imp_iff_not_or] using hl
  simp only [decodeA, encodeA_reserved_high, encodeA_reserved_low, encodeA_addr, encodeA_data, encodeA_len,
    if_neg hdata, if_neg hlen, ne_eq, not_true_eq_false, or_self, if_false]

end

section
variable (p : Params) (addr : Addr)

theorem decodeWord_encodeA_wr (data : Byte) : decodeWord p (encodeA 1 addr data 0) = .ok (.wr addr data) := by
  simp only [decodeWord, encodeA_op, BitVec.reduceToNat]
  exact (decodeA_encodeA _ (.inl rfl) (.inr rfl)).trans (if_neg nofun)

theorem decodeWord_encodeA_rd : decodeWord p (encodeA 2 addr 0 0) = .ok (.rd addr) := by
  simp only [decodeWord, encodeA_op, BitVec.reduceToNat]
  exact (decodeA_encodeA _ (.inr rfl) (.inr rfl)).trans (if_neg nofun)

theorem decodeWord_encodeA_brd (len : BitVec 4) : decodeWord p (encodeA 3 addr 0 len) =
    if len = 0 ∨ p.maxBurst.toNat < len.toNat then .error .badLength else .ok (.brd addr len) := by
  simp only [decodeWord, encodeA_op, BitVec.reduceToNat]
  exact (decodeA_encodeA _ (.inr rfl) (.inl rfl)).trans (by simp only [true_and])

end

/-! ### A command of one frame -/

/-- The state in which the rest of a rule begins: the frame `tx` has been sent, answered by `x` and closed. -/
def State.framed (kind : Kind) (tx : List Byte) (ret : Ret) (x : Xrsp) (later : List Xrsp) (s : State) : State :=
  ((s.openFrame kind tx ret).takeAnswer { kind := kind, tx := tx } x later).closeFrame

section
variable {s : State} {x : Xrsp} {later : List Xrsp} {kind : Kind} {tx : List Byte} {ret : Ret}

theorem respond_framed (hs : s.Calm) (r : Response) :
    respond r (s.framed kind tx ret x later) =
      .next (s.ended (bracket kind tx (x.answer { kind := kind, tx := tx })) r later) := by
  obtain ⟨hr, hy⟩ := hs
  have hnone : (s.framed kind tx ret x later).resetIn = [] := by simp [State.framed, hr]
  have hready : (s.framed kind tx ret x later).rspReady = true := hy
  rw [respond_taken hnone hready]
  simp [State.framed, State.taken, State.closeFrame, State.takeAnswer, State.openFrame, State.record, State.offer,
    State.ended, bracket, hr]

/-- A rule that answers its frame with `r` ends with the frame's bracket and RSP(r). -/
theorem sendFrame_ended (hs : s.Calm) (hx : s.live = x :: later) {k : Answer → State → Result} {r : Response}
    (hk : k (x.answer { kind := kind, tx := tx }) (s.framed kind tx ret x later) =
      respond r (s.framed kind tx ret x later)) :
    sendFrame kind tx ret k s =
      .next (s.ended (bracket kind tx (x.answer { kind := kind, tx := tx })) r later) :=
  (sendFrame_answered hs.1 hx kind tx ret k).trans (hk.trans (respond_framed hs r))

theorem burstFrame_length (addr : Addr) (n : Nat) : (burstFrame addr n).length = 1 + n := by
  rw [burstFrame, List.length_cons, List.length_replicate, Nat.add_comm]

theorem answer_burstFrame (x : Xrsp) (addr : Addr) (n : Nat) :
    x.answer { kind := .duplex, tx := burstFrame addr n } = x.readAnswer (1 + n) := by
  rw [answer_duplex, burstFrame_length]

/-- The frame buffer that a successful read leaves. -/
theorem framed_rxBuf (hok : x.ok = true) :
    (s.framed .duplex tx ret x later).rxBuf = x.rx.toList.take tx.length := by
  simp [State.framed, answer_duplex, Xrsp.readAnswer, hok, Answer.bytes]

end

section
variable (s : State) (x : Xrsp) (later : List Xrsp)

/-- R70: OK with no field driven, or TRANSPORT_ERROR. -/
theorem afterWr_writeAnswer :
    afterWr x.writeAnswer s = respond (if x.ok then .done else .transportError x.err) s := by
  cases hok : x.ok <;> simp only [Xrsp.writeAnswer, hok] <;> rfl

/-- R71: the byte rx(1), or TRANSPORT_ERROR. -/
theorem afterRd_framed (addr : Addr) (ret : Ret) :
    let t := s.framed .duplex (readFrame addr) ret x later
    afterRd (x.readAnswer 2) t =
      respond (if x.ok then { status := .ok, d0 := some (zext32 x.rx[1]) } else .transportError x.err) t := by
  intro t
  cases hok : x.ok with
  | false => simp only [Xrsp.readAnswer, hok]; rfl
  | true =>
      have hbyte : t.rx 1 = .ok x.rx[1] := rx_takeAnswer _ hok _ _ (by simp [readFrame]) (by decide)
      simp only [Xrsp.readAnswer, hok, if_true, afterRd, byteResponse, hbyte]
      rfl

/-- R72: the bytes rx(1) to rx(N), or TRANSPORT_ERROR. -/
theorem afterBrd_framed (addr : Addr) (ret : Ret) (len : BitVec 4) :
    let t := s.framed .duplex (burstFrame addr len.toNat) ret x later
    afterBrd len (x.answer { kind := .duplex, tx := burstFrame addr len.toNat }) t =
      respond (if x.ok then { status := .ok, len := some len, bytes := (x.rx.toList.drop 1).take len.toNat }
        else .transportError x.err) t := by
  intro t
  rw [answer_burstFrame]
  cases hok : x.ok with
  | false => simp only [Xrsp.readAnswer, hok]; rfl
  | true =>
      have hbuf : t.rxBuf = x.rx.toList.take (1 + len.toNat) := by
        rw [framed_rxBuf hok, burstFrame_length]
      have hbytes : t.rxBytes 1 len.toNat = .ok ((x.rx.toList.drop 1).take len.toNat) := by
        rw [rxBytes_of_le t _ 1 (by rw [hbuf, List.length_take, Vector.length_toList]; omega), hbuf]
        simp [List.drop_take]
      simp only [Xrsp.readAnswer, hok, if_true, afterBrd, burstResponse, hbytes]
      rfl

end

/-! ### WR, RD and BRD -/

/-- Settles O30: the word is WR's code, and WR answers its one frame. -/
theorem wrWritesOneRegister : Obligations.WrWritesOneRegister := by
  unfold Obligations.WrWritesOneRegister
  intro p s addr data x later hs hx
  have hword : BitVec.ofNat 32 (0x10000000 + addr.toNat * 0x10000 + data.toNat * 0x100) = encodeA 1 addr data 0 := by
    simp [encodeA]
  have hframe : [addr.setWidth 8 <<< 1 ||| 0, data] = writeFrame addr data := by simp [writeFrame, writeByte]
  rw [hword, hframe]
  exact ⟨decodeWord_encodeA_wr p addr data, sendFrame_ended hs hx (afterWr_writeAnswer _ x)⟩

/-- Settles O31: the word is RD's code, and RD answers its one frame with the second byte received. -/
theorem rdReadsOneRegister : Obligations.RdReadsOneRegister := by
  unfold Obligations.RdReadsOneRegister
  intro p s addr x later hs hx
  have hword : BitVec.ofNat 32 (0x20000000 + addr.toNat * 0x10000) = encodeA 2 addr 0 0 := by simp [encodeA]
  rw [hword]
  exact ⟨decodeWord_encodeA_rd p addr, sendFrame_ended hs hx (afterRd_framed s x later addr .rd)⟩

/-- Settles O32: the word is BRD's code, refused for its length alone, and BRD answers its one frame. -/
theorem brdReadsBurst : Obligations.BrdReadsBurst := by
  unfold Obligations.BrdReadsBurst
  have hword (addr : Addr) (n : BitVec 4) :
      BitVec.ofNat 32 (0x30000000 + addr.toNat * 0x10000 + n.toNat) = encodeA 3 addr 0 n := by simp [encodeA]
  refine ⟨fun p addr n hn => ?_, fun p s addr n x later h0 hmax hs hx => ?_⟩
  · have hrefused : decodeWord p (encodeA 3 addr 0 n) = .error .badLength :=
      (decodeWord_encodeA_brd p addr n).trans (if_pos hn)
    rw [hword]
    exact ⟨(decodeWord_error_iff p _).mp ⟨_, hrefused⟩, hrefused⟩
  · have hlen : ¬ (n = 0 ∨ p.maxBurst.toNat < n.toNat) := not_or.mpr ⟨h0, Nat.not_lt.mpr hmax⟩
    rw [hword, ← answer_burstFrame x addr]
    exact ⟨(decodeWord_encodeA_brd p addr n).trans (if_neg hlen),
      sendFrame_ended hs hx (afterBrd_framed s x later addr (.brd n) n)⟩

end Sys2Proof.Machine

namespace Sys2Proof.Machine

/-! ## The sequenced commands (41_driver_ops.md) -/

theorem surfacesErrors_iff {p : ErrPolicy} : surfacesErrors p = true ↔ p = .hardened := by
  cases p <;> decide

/-! ### The bound check (60_exceptions.md R96) -/

theorem needBound_bound {s : State} (hb : s.bound = true) (k : State → Result) : needBound k s = k s := if_pos hb

theorem needBound_ended {s : State} (hs : s.Calm) (hb : s.bound = false) (k : State → Result) :
    needBound k s = .next (s.endedAtOnce .notBound) :=
  (if_neg (Bool.eq_false_iff.mp hb)).trans (respond_endedAtOnce hs .notBound)

/-! ### START -/

/-- R78: OK with no field driven, or under HARDENED the transport's error. -/
theorem afterStart_writeAnswer (x : Xrsp) (s : State) :
    afterStart x.writeAnswer s =
      respond (if x.ok = false ∧ s.params.policy = .hardened then .transportError x.err else .done) s := by
  cases hok : x.ok with
  | true => simp only [Xrsp.writeAnswer, hok]; rfl
  | false =>
      simp only [Xrsp.writeAnswer, hok, afterStart, surfacesErrors_iff, raise_eq_respond, true_and, Bool.false_eq_true,
        if_false]
      exact (apply_ite (respond · s) ..).symm

/-- Settles O38: START is the bound check and one frame, whose error only HARDENED surfaces. -/
theorem startWritesPowerCtl : Obligations.StartWritesPowerCtl := by
  unfold Obligations.StartWritesPowerCtl
  intro p s x later hs
  exact ⟨rfl, fun hb => needBound_ended hs hb _, fun hb hx =>
    (needBound_bound hb _).trans (sendFrame_ended hs hx (afterStart_writeAnswer x _))⟩

/-! ### What came before a rule's next frame

No rule reads the events that are already in the trace: with other events before it, it does the same. -/

/-- The state with the events `es` before its trace. -/
def State.since (es : List Event) (s : State) : State := { s with trace := es ++ s.trace }

/-- What an operation answers, with the events `es` before the trace. -/
def resultSince (es : List Event) : Result → Result
  | .next s => .next (s.since es)
  | .fault f => .fault f
  | .refused r => .refused r

/-- An operation that does the same after any events. -/
def IgnoresPast (k : State → Result) : Prop := ∀ es s, k (s.since es) = resultSince es (k s)

theorem resultSince_eq_next {es : List Event} {o : Result} {t : State} (h : resultSince es o = .next t) :
    ∃ u, o = .next u ∧ t = u.since es := by
  cases o with
  | next u => exact ⟨u, rfl, (Host.Outcome.next.inj h).symm⟩
  | fault f => cases h
  | refused r => cases h

section
variable (es : List Event) (s : State)

theorem since_applyReset : (s.since es).applyReset = s.applyReset.since es := by
  have hlate : (s.since es).leavesLate = s.leavesLate := rfl
  simp only [State.applyReset, hlate]
  simp [State.since]

theorem since_taken (r : Response) : (s.since es).taken r = (s.taken r).since es := by
  simp [State.since, State.taken, State.record]

theorem since_openFrame (kind : Kind) (tx : List Byte) (ret : Ret) :
    (s.since es).openFrame kind tx ret = (s.openFrame kind tx ret).since es := by
  simp [State.since, State.openFrame, State.record]

theorem since_takeAnswer (q : Request) (x : Xrsp) (later : List Xrsp) :
    (s.since es).takeAnswer q x later = (s.takeAnswer q x later).since es := by
  simp [State.since, State.takeAnswer, State.record]

theorem since_closeFrame : (s.since es).closeFrame = s.closeFrame.since es := by
  simp [State.since, State.closeFrame, State.record]

end

theorem IgnoresPast.guardReset {k : State → Result} (hk : IgnoresPast k) : IgnoresPast (guardReset k) := by
  intro es s
  rw [Machine.guardReset, Machine.guardReset, show (s.since es).resetDue = s.resetDue from rfl]
  split
  · rw [since_applyReset]; rfl
  · exact hk es s

theorem ignoresPast_handOver : IgnoresPast fun s => .next s.handOver := by
  intro es s
  refine congrArg Host.Outcome.next ?_
  rw [State.handOver, State.handOver, show (s.since es).rsp = s.rsp from rfl,
    show (s.since es).rspReady = s.rspReady from rfl]
  cases s.rsp with
  | none => rfl
  | some r =>
      cases s.rspReady
      · rfl
      · exact since_taken es s r

theorem ignoresPast_respond (r : Response) : IgnoresPast (respond r) :=
  fun es s => ignoresPast_handOver.guardReset es (s.offer r)

theorem ignoresPast_exchange {k : Answer → State → Result} (hk : ∀ a, IgnoresPast (k a)) :
    IgnoresPast (exchange k) := by
  intro es s
  rw [exchange, exchange, show (s.since es).xreq = s.xreq from rfl, show (s.since es).live = s.live from rfl]
  cases s.xreq with
  | none => rfl
  | some q =>
      cases s.live with
      | nil => rfl
      | cons x later =>
          have hrest : IgnoresPast fun t => k (x.answer q) t.closeFrame := fun es t =>
            (congrArg (k _) (since_closeFrame es t)).trans (hk _ es _)
          simp only [since_takeAnswer, hrest.guardReset es]

theorem ignoresPast_sendFrame {k : Answer → State → Result} (hk : ∀ a, IgnoresPast (k a)) (kind : Kind)
    (tx : List Byte) (ret : Ret) : IgnoresPast (sendFrame kind tx ret k) := by
  refine IgnoresPast.guardReset fun es s => ?_
  rw [since_openFrame]
  exact (ignoresPast_exchange hk).guardReset es _

section
variable (r : BitVec 2) (o : BitVec 4) (h : BitVec 3)

theorem ignoresPast_afterInitRange (a : Answer) : IgnoresPast (afterInitRange r o h a) := by
  intro es s
  cases a with
  | err e => exact ignoresPast_respond _ es s
  | okRx _ => exact ignoresPast_respond .done es (s.latch r o h)
  | okDone => exact ignoresPast_respond .done es (s.latch r o h)

theorem ignoresPast_afterInitFilter (a : Answer) : IgnoresPast (afterInitFilter r o h a) := by
  have hrange := ignoresPast_sendFrame (ignoresPast_afterInitRange r o h)
  intro es s
  cases a with
  | err e => exact ignoresPast_respond _ es s
  | okRx _ => exact hrange _ _ _ es s
  | okDone => exact hrange _ _ _ es s

/-! ### INIT -/

/-- INIT from its FILTER frame on (R75). -/
def sendFilter (s : State) : Result :=
  sendFrame .writeOnly (writeFrame regFILTER (filterByte s.params.variant o h)) (.initFilter r o h)
    (afterInitFilter r o h) s

theorem ignoresPast_sendFilter : IgnoresPast (sendFilter r o h) :=
  fun es s => ignoresPast_sendFrame (ignoresPast_afterInitFilter r o h) _ _ _ es s

/-- A closed frame without its received bytes and with CS(1) alone in the trace: nothing of its answer is left. -/
def State.forget (s : State) : State := { s with rxBuf := [], trace := [.cs .high] }

/-- The FILTER frame goes out whatever the frame before it was answered. -/
theorem sendFilter_framed (s : State) (kind : Kind) (tx : List Byte) (ret : Ret) (x : Xrsp) (later : List Xrsp) :
    sendFilter r o h (s.framed kind tx ret x later) =
      resultSince (s.trace ++ [.cs .low, .xfer kind tx (x.answer { kind := kind, tx := tx })])
        (sendFilter r o h (s.framed kind tx ret x later).forget) := by
  have hpast : { s.framed kind tx ret x later with rxBuf := [] } = (s.framed kind tx ret x later).forget.since
      (s.trace ++ [.cs .low, .xfer kind tx (x.answer { kind := kind, tx := tx })]) := by
    simp [State.framed, State.forget, State.since]
  rw [← ignoresPast_sendFilter, ← hpast]
  rfl

/-- R77: UNEXPECTED_DEVICE_ID, or the FILTER frame, by the identity byte and the policy. -/
theorem initWith_answered {s : State} {x : Xrsp} {later : List Xrsp} (hr : s.resetIn = [])
    (hx : s.live = x :: later) (hok : x.ok = true) :
    let t := s.framed .duplex (readFrame regDEVID) (.initId r o h) x later
    initWith r o h s =
      if x.rx[1] ≠ expectedId ∧ s.params.policy = .hardened then respond (.unexpectedDeviceId x.rx[1]) t
      else sendFilter r o h t := by
  intro t
  have hbyte : t.rx 1 = .ok x.rx[1] := rx_takeAnswer _ hok _ _ (by simp [readFrame]) (by decide)
  have hchecked : initWith r o h s = checkId r o h t := by
    rw [initWith, sendFrame_answered hr hx, answer_duplex]
    simp only [Xrsp.readAnswer, hok]
    rfl
  rw [hchecked, checkId, hbyte]
  simp only [surfacesErrors_iff]
  rfl

end

theorem readAnswer_two {x : Xrsp} (hok : x.ok = true) : x.readAnswer 2 = .okRx [x.rx[0], x.rx[1]] := by
  have hbytes : x.rx.toList.take 2 = [x.rx[0], x.rx[1]] :=
    List.ext_getElem (by simp) fun
      | 0, _, _ => by simp
      | 1, _, _ => by simp
      | _ + 2, _, hi => absurd hi (by simp)
  rw [Xrsp.readAnswer, hok, if_pos rfl, hbytes]

section
variable {s : State} {x : Xrsp} {later : List Xrsp} (rset oset hset : Bool) (rcode : BitVec 2) (ocode : BitVec 4)
  (hcode : BitVec 3)

theorem exec_init_unbound (hb : s.bound = false) :
    exec (.init rset rcode oset ocode hset hcode) s =
      initWith (resolveRange rset rcode) (resolveOdr oset ocode) (resolveHpf s.params.variant hset hcode) s :=
  if_neg (Bool.eq_false_iff.mp hb)

/-- R77: under BASELINE the identity byte is in the trace, and INIT goes on from a state that it left no mark on. -/
theorem exec_init_baseline (hp : s.params.policy = .baseline) (hr : s.resetIn = []) (hb : s.bound = false)
    (hx : s.live = x :: later) (hok : x.ok = true) :
    let q : Request := ⟨.duplex, readFrame regDEVID⟩
    let r := resolveRange rset rcode
    let o := resolveOdr oset ocode
    let h := resolveHpf s.params.variant hset hcode
    exec (.init rset rcode oset ocode hset hcode) s =
      resultSince (s.trace ++ [.cs .low, .xfer q.kind q.tx (x.answer q)])
        (sendFilter r o h (s.framed q.kind q.tx (.initId r o h) x later).forget) := by
  have hignored : ¬ (x.rx[1] ≠ expectedId ∧ s.params.policy = .hardened) := by simp [hp]
  intro q r o h
  rw [exec_init_unbound _ _ _ _ _ _ hb, initWith_answered _ _ _ hr hx hok, if_neg hignored, sendFilter_framed]

end

/-- Settles O36: HARDENED responds in place of the FILTER frame; BASELINE sends it from the same state after either
byte. -/
theorem identityCheckPolicy : Obligations.IdentityCheckPolicy := by
  unfold Obligations.IdentityCheckPolicy
  intro s rset oset hset rcode ocode hcode x later hs hb hx hok hid i
  refine ⟨fun hp => ?_, fun hp t u ht hu => ?_⟩
  · have hanswer : x.answer ⟨.duplex, readFrame regDEVID⟩ = .okRx [x.rx[0], x.rx[1]] := readAnswer_two hok
    rw [exec_init_unbound _ _ _ _ _ _ hb, initWith_answered _ _ _ hs.1 hx hok, if_pos ⟨hid, hp⟩, respond_framed hs,
      hanswer]
    rfl
  · let s' : State := { s with xrspIn := { x with rx := x.rx.set 1 0xED } :: later, stale := 0 }
    have ht' := exec_init_baseline rset oset hset rcode ocode hcode hp hs.1 hb hx hok
    have hu' := exec_init_baseline (s := s') rset oset hset rcode ocode hcode hp hs.1 hb rfl hok
    obtain ⟨v, hv, rfl⟩ := resultSince_eq_next (ht'.symm.trans ht)
    obtain ⟨w, hw, rfl⟩ := resultSince_eq_next (hu'.symm.trans hu)
    obtain rfl : v = w := Host.Outcome.next.inj (hv.symm.trans hw)
    refine ⟨rfl, rfl, rfl, rfl, rfl, rfl, rfl, ?_⟩
    exact (List.drop_left' (by simp)).trans (List.drop_left' (by simp [s'])).symm

end Sys2Proof.Machine

namespace Sys2Proof.Machine

/-! ## TEMP12 (42_decode.md R83) -/

/-- 90_conflicts.md C3: the mask 0x0F keeps the low nibble under four zero bits. -/
theorem and_nibbleMask_eq_append (b : Byte) : b &&& 0x0F = 0#4 ++ b.extractLsb' 0 4 :=
  BitVec.and_setWidth_allOnes 4 4 b

theorem temp12_eq_append (t2 t1 : Byte) : temp12 t2 t1 = 0#4 ++ (t2.extractLsb' 0 4 ++ t1) := by
  calc temp12 t2 t1 = (t2 &&& 0x0F) ++ t1 := by
        rw [BitVec.append_def, BitVec.shiftLeftZeroExtend_eq, BitVec.setWidth'_eq]; rfl
    _ = 0#4 ++ (t2.extractLsb' 0 4 ++ t1) := by rw [and_nibbleMask_eq_append, BitVec.append_assoc]; rfl

theorem toNat_temp12 (t2 t1 : Byte) : (temp12 t2 t1).toNat = t2.toNat % 16 * 256 + t1.toNat := by
  rw [temp12_eq_append, BitVec.toNat_append, BitVec.toNat_append, ← Nat.shiftLeft_add_eq_or_of_lt t1.isLt]
  simp [Nat.shiftLeft_eq]

/-- R88: the u16 zero-extended to a word is still the 12-bit field. -/
theorem setWidth_temp12 (t2 t1 : Byte) :
    (temp12 t2 t1).setWidth 32 = 0#20 ++ (t2.extractLsb' 0 4 ++ t1) := by
  rw [temp12_eq_append]
  exact BitVec.setWidth_append

/-- Settles O11: TEMP12 is the field under four zero bits, from which its value, its range and the independence of
t2[7:4] are read off. -/
theorem temp12IsField : Obligations.Temp12IsField := by
  unfold Obligations.Temp12IsField
  refine ⟨fun t2 t1 => ⟨temp12_eq_append t2 t1, toNat_temp12 t2 t1, ?_, fun junk => ?_⟩, by decide⟩
  · rw [toNat_temp12]
    omega
  · rw [temp12_eq_append, temp12_eq_append, BitVec.extractLsb'_append_eq_right]

end Sys2Proof.Machine

namespace Sys2Proof.Machine

/-! ## The sampling commands (42_decode.md) -/

section
variable {s : State} {x : Xrsp} {later : List Xrsp} {tx : List Byte} {ret : Ret}

/-- A command that needs the block bound, and that responds to its one burst with the transport's error, or with the
`r` that `read` makes of the received bytes. -/
theorem boundBurst_ended (hs : s.Calm) (hb : s.bound = true) (hx : s.live = x :: later) {addr : Addr} {n : Nat}
    {k : Answer → State → Result} {read : State → Except Fault Response} {r : Response}
    (herr : ∀ e t, k (.err e) t = raise (.transportError e) t)
    (hrx : ∀ rx t, k (.okRx rx) t = respondWith (read t) t)
    (hread : x.ok = true → read (s.framed .duplex (burstFrame addr n) ret x later) = .ok r) :
    needBound (sendFrame .duplex (burstFrame addr n) ret k) s =
      .next (s.ended (bracket .duplex (burstFrame addr n) (x.readAnswer (1 + n)))
        (if x.ok then r else .transportError x.err) later) := by
  rw [needBound_bound hb, ← answer_burstFrame x addr]
  refine sendFrame_ended hs hx ?_
  rw [answer_burstFrame]
  cases hok : x.ok with
  | false => simp only [Xrsp.readAnswer, hok, Bool.false_eq_true, if_false, herr, raise_eq_respond]
  | true => simp only [Xrsp.readAnswer, hok, if_true, hrx, hread hok, respondWith_ok]

/-! ### The received bytes of an answered frame -/

theorem rx_framed (hok : x.ok = true) {i : Nat} (hi : i < tx.length) (h16 : i < 16) :
    (s.framed .duplex tx ret x later).rx i = .ok x.rx[i] :=
  rx_takeAnswer _ hok tx later hi h16

theorem lane_framed (hok : x.ok = true) {i : Nat} (hi : i + 2 < tx.length) (h16 : i + 2 < 16) :
    lane (s.framed .duplex tx ret x later) i = .ok (sext20 x.rx[i] x.rx[i + 1] x.rx[i + 2]) := by
  have hrx (j : Nat) (hj : j ≤ i + 2) : (s.framed .duplex tx ret x later).rx j = .ok x.rx[j] :=
    rx_framed hok (by omega) (by omega)
  simp only [lane, hrx i (by omega), hrx (i + 1) (by omega), hrx (i + 2) (by omega)]
  rfl

theorem tempResponse_framed (hok : x.ok = true) (hlen : 2 < tx.length) :
    tempResponse (s.framed .duplex tx ret x later) =
      .ok { status := .ok, d0 := some (0#20 ++ (x.rx[1].extractLsb' 0 4 ++ x.rx[2])) } := by
  have hrx (j : Nat) (hj : j ≤ 2) : (s.framed .duplex tx ret x later).rx j = .ok x.rx[j] :=
    rx_framed hok (by omega) (by omega)
  rw [← setWidth_temp12]
  simp only [tempResponse, hrx 1 (by omega), hrx 2 (by omega)]
  rfl

theorem accrResponse_framed (hok : x.ok = true) (hlen : 9 < tx.length) :
    accrResponse (s.framed .duplex tx ret x later) = .ok {
      status := .ok
      d0 := some (sext20 x.rx[1] x.rx[2] x.rx[3])
      d1 := some (sext20 x.rx[4] x.rx[5] x.rx[6])
      d2 := some (sext20 x.rx[7] x.rx[8] x.rx[9]) } := by
  have hlane (i : Nat) (hi : i ≤ 7) : lane (s.framed .duplex tx ret x later) i =
      .ok (sext20 x.rx[i] x.rx[i + 1] x.rx[i + 2]) := lane_framed hok (by omega) (by omega)
  simp only [accrResponse, hlane 1 (by omega), hlane 4 (by omega), hlane 7 (by omega)]
  rfl

end

/-! ### TEMP and ACCR -/

/-- Settles O40: TEMP is the bound check and one burst from TEMP2, whose two bytes are the 12-bit field. -/
theorem tempReadsField : Obligations.TempReadsField := by
  unfold Obligations.TempReadsField
  intro p s x later hs
  exact ⟨rfl, fun hb => needBound_ended hs hb _, fun hb hx =>
    boundBurst_ended hs hb hx (fun _ _ => rfl) (fun _ _ => rfl) fun hok => tempResponse_framed hok (by decide)⟩

/-- Settles O41: ACCR is the bound check and one burst from XDATA3, whose nine bytes are three lanes. -/
theorem accrReadsThreeAxes : Obligations.AccrReadsThreeAxes := by
  unfold Obligations.AccrReadsThreeAxes
  intro p s x later hs
  exact ⟨rfl, fun hb => needBound_ended hs hb _, fun hb hx =>
    boundBurst_ended hs hb hx (fun _ _ => rfl) (fun _ _ => rfl) fun hok => accrResponse_framed hok (by decide)⟩

end Sys2Proof.Machine

namespace Sys2Proof.Machine

/-! ## The bound check of every sequenced command (60_exceptions.md R96) -/

/-- START, GETID, TEMP, ACCR and ACCN are the bound check before their one frame. -/
theorem exec_eq_needBound {i : Instr} (hi : i ∈ [Instr.start, .getid, .temp, .accr, .accn]) (s : State) :
    exec i s = needBound i.sends s := by
  simp only [List.mem_cons, List.not_mem_nil, or_false] at hi
  obtain rfl | rfl | rfl | rfl | rfl := hi
  all_goals rfl

/-- Settles O37: the five commands answer from the bound check, and a bound INIT is refused as R31 says. -/
theorem boundCheckBeforeFrames : Obligations.BoundCheckBeforeFrames := by
  unfold Obligations.BoundCheckBeforeFrames
  intro s hs
  refine ⟨fun hb i hi => ?_, fun hb rset rcode oset ocode hset hcode => ?_⟩
  · exact (exec_eq_needBound hi s).trans (needBound_ended hs hb i.sends)
  · exact settingsImmutableWhileBound.2 s rset oset hset rcode ocode hcode hb hs

end Sys2Proof.Machine

namespace Sys2Proof.Machine

/-! ## Encodings: the round trip and the opcode table (30_encoding.md) -/

/-! ### The words of format I (30_encoding.md R63) -/

section
variable {rset oset hset : Bool} {rcode : BitVec 2} {ocode : BitVec 4} {hcode : BitVec 3}

theorem toNat_encodeI : (encodeI rset rcode oset ocode hset hcode).toNat =
    0x4 * 2 ^ 28 + rset.toNat * 2 ^ 23 + rcode.toNat * 2 ^ 16 + oset.toNat * 2 ^ 15 + ocode.toNat * 2 ^ 8 +
      hset.toNat * 2 ^ 7 + hcode.toNat := by
  have := rset.toNat_le
  have := oset.toNat_le
  have := hset.toNat_le
  exact BitVec.toNat_ofNat .. ▸ Nat.mod_eq_of_lt (by omega)

/-- A bit field of a format I word, by arithmetic on the sum that makes up the word. -/
theorem extractLsb'_encodeI {start n : Nat} {b : BitVec n}
    (h : rset.toNat ≤ 1 → oset.toNat ≤ 1 → hset.toNat ≤ 1 →
      (0x4 * 2 ^ 28 + rset.toNat * 2 ^ 23 + rcode.toNat * 2 ^ 16 + oset.toNat * 2 ^ 15 + ocode.toNat * 2 ^ 8 +
        hset.toNat * 2 ^ 7 + hcode.toNat) / 2 ^ start % 2 ^ n = b.toNat) :
    (encodeI rset rcode oset ocode hset hcode).extractLsb' start n = b := by
  refine BitVec.eq_of_toNat_eq ?_
  rw [BitVec.extractLsb'_toNat, Nat.shiftRight_eq_div_pow, toNat_encodeI,
    h rset.toNat_le oset.toNat_le hset.toNat_le]

@[simp] theorem encodeI_op : (encodeI rset rcode oset ocode hset hcode).extractLsb' 28 4 = 4 :=
  extractLsb'_encodeI (b := 4#4) (by rw [BitVec.toNat_ofNat]; omega)
@[simp] theorem encodeI_reserved_24 : (encodeI rset rcode oset ocode hset hcode).extractLsb' 24 4 = 0 :=
  extractLsb'_encodeI (b := 0#4) (by rw [BitVec.toNat_zero]; omega)
@[simp] theorem encodeI_rset : (encodeI rset rcode oset ocode hset hcode).extractLsb' 23 1 = BitVec.ofBool rset :=
  extractLsb'_encodeI (by rw [BitVec.toNat_ofBool]; omega)
@[simp] theorem encodeI_reserved_18 : (encodeI rset rcode oset ocode hset hcode).extractLsb' 18 5 = 0 :=
  extractLsb'_encodeI (b := 0#5) (by rw [BitVec.toNat_zero]; omega)
@[simp] theorem encodeI_rcode : (encodeI rset rcode oset ocode hset hcode).extractLsb' 16 2 = rcode :=
  extractLsb'_encodeI (by omega)
@[simp] theorem encodeI_oset : (encodeI rset rcode oset ocode hset hcode).extractLsb' 15 1 = BitVec.ofBool oset :=
  extractLsb'_encodeI (by rw [BitVec.toNat_ofBool]; omega)
@[simp] theorem encodeI_reserved_12 : (encodeI rset rcode oset ocode hset hcode).extractLsb' 12 3 = 0 :=
  extractLsb'_encodeI (b := 0#3) (by rw [BitVec.toNat_zero]; omega)
@[simp] theorem encodeI_ocode : (encodeI rset rcode oset ocode hset hcode).extractLsb' 8 4 = ocode :=
  extractLsb'_encodeI (by omega)
@[simp] theorem encodeI_hset : (encodeI rset rcode oset ocode hset hcode).extractLsb' 7 1 = BitVec.ofBool hset :=
  extractLsb'_encodeI (by rw [BitVec.toNat_ofBool]; omega)
@[simp] theorem encodeI_reserved_3 : (encodeI rset rcode oset ocode hset hcode).extractLsb' 3 4 = 0 :=
  extractLsb'_encodeI (b := 0#4) (by rw [BitVec.toNat_zero]; omega)
@[simp] theorem encodeI_hcode : (encodeI rset rcode oset ocode hset hcode).extractLsb' 0 3 = hcode :=
  extractLsb'_encodeI (by omega)

end

/-- A bit of a word is its field of width 1. -/
theorem extractLsb'_one_eq_iff {w : Word} {i : Nat} {b : Bool} :
    w.extractLsb' i 1 = BitVec.ofBool b ↔ w.getLsbD i = b := by
  refine ⟨fun h => ?_, fun h => ?_⟩
  · simpa using congrArg (·.getLsbD 0) h
  · refine BitVec.eq_of_getLsbD_eq fun j hj => ?_
    obtain rfl : j = 0 := by omega
    simpa using h

theorem rangeFieldOk_iff {rset : Bool} {rcode : BitVec 2} :
    rangeFieldOk rset rcode = true ↔ ¬(rset = true ∧ rcode = 0) ∧ ¬(rset = false ∧ rcode ≠ 0) := by
  cases rset <;> simp [rangeFieldOk]

theorem odrFieldOk_iff {oset : Bool} {ocode : BitVec 4} :
    odrFieldOk oset ocode = true ↔ ¬(oset = true ∧ 10 < ocode.toNat) ∧ ¬(oset = false ∧ ocode ≠ 0) := by
  cases oset <;> simp [odrFieldOk]

theorem hpfFieldOk_iff {v : HpfVariant} {hset : Bool} {hcode : BitVec 3} :
    hpfFieldOk v hset hcode = true ↔
      ¬(hset = true ∧ hcode = 7) ∧ ¬(hset = false ∧ hcode ≠ 0) ∧ ¬(hset = true ∧ v = .minimal) := by
  cases v <;> cases hset <;> simp [hpfFieldOk]

/-- A format I word without reserved bits whose codes are well-formed is an INIT (R66 items 5 to 9). -/
theorem decodeI_of_wellFormed {p : Params} {w : Word}
    (hres : ¬(w.extractLsb' 24 4 ≠ 0 ∨ w.extractLsb' 18 5 ≠ 0 ∨ w.extractLsb' 12 3 ≠ 0 ∨ w.extractLsb' 3 4 ≠ 0))
    (h : (Instr.init (w.getLsbD 23) (w.extractLsb' 16 2) (w.getLsbD 15) (w.extractLsb' 8 4) (w.getLsbD 7)
      (w.extractLsb' 0 3)).wellFormed p = true) :
    decodeI p.variant w = .ok (.init (w.getLsbD 23) (w.extractLsb' 16 2) (w.getLsbD 15) (w.extractLsb' 8 4)
      (w.getLsbD 7) (w.extractLsb' 0 3)) := by
  simp only [Instr.wellFormed, Bool.and_eq_true, rangeFieldOk_iff, odrFieldOk_iff, hpfFieldOk_iff] at h
  obtain ⟨⟨⟨hr, hzr⟩, ho, hzo⟩, hh, hzh, hv⟩ := h
  simp only [decodeI, if_neg hres, if_neg hr, if_neg ho, if_neg hh, if_neg hv,
    if_neg (not_or.mpr ⟨hzr, not_or.mpr ⟨hzo, hzh⟩⟩)]

theorem decodeWord_encodeI {p : Params} {rset oset hset : Bool} {rcode : BitVec 2} {ocode : BitVec 4}
    {hcode : BitVec 3} (h : (Instr.init rset rcode oset ocode hset hcode).wellFormed p = true) :
    decodeWord p (encodeI rset rcode oset ocode hset hcode) = .ok (.init rset rcode oset ocode hset hcode) := by
  have hr : (encodeI rset rcode oset ocode hset hcode).getLsbD 23 = rset := extractLsb'_one_eq_iff.mp encodeI_rset
  have ho : (encodeI rset rcode oset ocode hset hcode).getLsbD 15 = oset := extractLsb'_one_eq_iff.mp encodeI_oset
  have hh : (encodeI rset rcode oset ocode hset hcode).getLsbD 7 = hset := extractLsb'_one_eq_iff.mp encodeI_hset
  have hd := decodeI_of_wellFormed (p := p) (w := encodeI rset rcode oset ocode hset hcode) (by simp)
  simp only [hr, ho, hh, encodeI_rcode, encodeI_ocode, encodeI_hcode] at hd
  simp only [decodeWord, encodeI_op, BitVec.reduceToNat]
  exact hd h

/-! ### Decoding an encoding (30_encoding.md sections 1 and 3) -/

theorem extractLsb'_encodeAddressByte (addr : Addr) (read : Bool) :
    (encodeAddressByte addr read).extractLsb' 1 7 = addr := by
  refine BitVec.eq_of_getLsbD_eq fun i hi => ?_
  rw [BitVec.getLsbD_extractLsb', getLsbD_encodeAddressByte]
  simp [hi]

theorem decodeFrame_wrframe (addr : Addr) (data : Byte) :
    decodeFrame [encodeAddressByte addr false, data] = .ok (.wrframe addr data) := by
  rw [← writeByte_eq, ← writeFrame, decodeFrame_writeFrame, writeByte_eq, extractLsb'_encodeAddressByte]

theorem decodeFrame_reads (addr : Addr) {n : Nat} (h1 : n ≠ 0) (h15 : n ≤ 15) :
    decodeFrame (encodeAddressByte addr true :: List.replicate n 0) =
      .ok (if n = 1 then .rdframe addr else .brdframe addr (BitVec.ofNat 4 n)) := by
  rw [← readByte_eq, ← burstFrame, decodeFrame_burstFrame addr h1 h15, readByte_eq, extractLsb'_encodeAddressByte]

/-- Settles O2: by the instruction, each operand being the bit field that its format puts it in. -/
theorem decodeEncodeRoundTrip : Obligations.DecodeEncodeRoundTrip := by
  unfold Obligations.DecodeEncodeRoundTrip
  intro p i h
  cases i with
  | wr addr data => exact decodeWord_encodeA_wr p addr data
  | rd addr => exact decodeWord_encodeA_rd p addr
  | brd addr len =>
      refine (decodeWord_encodeA_brd p addr len).trans (if_neg ?_)
      simpa [Instr.wellFormed] using h
  | init rset rcode oset ocode hset hcode => exact decodeWord_encodeI h
  | start | getid | temp | accr | accn => rfl
  | wrframe addr data => exact decodeFrame_wrframe addr data
  | rdframe addr => exact decodeFrame_reads addr (n := 1) (by decide) (by decide)
  | brdframe addr n =>
      simp only [Instr.wellFormed, Bool.and_eq_true, bne_iff_ne] at h
      obtain ⟨⟨h0, h1⟩, -⟩ := h
      refine (decodeFrame_reads addr (n := n.toNat) (by bv_omega) (by omega)).trans ?_
      rw [if_neg (by bv_omega), BitVec.ofNat_toNat, BitVec.setWidth_eq]

/-! ### A legal word is its instruction's encoding (30_encoding.md sections 3 and 4) -/

/-- Two neighbouring fields are one. -/
theorem extractLsb'_join {v w : Word} {start m n : Nat} (hlow : v.extractLsb' start m = w.extractLsb' start m)
    (hhigh : v.extractLsb' (start + m) n = w.extractLsb' (start + m) n) :
    v.extractLsb' start (n + m) = w.extractLsb' start (n + m) := by
  rw [← BitVec.extractLsb'_append_extractLsb'_eq_extractLsb' rfl, hhigh, hlow,
    BitVec.extractLsb'_append_extractLsb'_eq_extractLsb' rfl]

theorem eq_of_extractLsb' {v w : Word} (h : v.extractLsb' 0 32 = w.extractLsb' 0 32) : v = w := by
  simpa using h

/-- Words of format A are equal when their fields are. -/
theorem eq_of_fieldsA {v w : Word} (hop : v.extractLsb' 28 4 = w.extractLsb' 28 4)
    (hhigh : v.extractLsb' 23 5 = w.extractLsb' 23 5) (haddr : v.extractLsb' 16 7 = w.extractLsb' 16 7)
    (hdata : v.extractLsb' 8 8 = w.extractLsb' 8 8) (hlow : v.extractLsb' 4 4 = w.extractLsb' 4 4)
    (hlen : v.extractLsb' 0 4 = w.extractLsb' 0 4) : v = w :=
  eq_of_extractLsb' (extractLsb'_join hlen (extractLsb'_join hlow (extractLsb'_join hdata (extractLsb'_join haddr
    (extractLsb'_join hhigh hop)))))

/-- Words of format I are equal when their fields are. -/
theorem eq_of_fieldsI {v w : Word} (hop : v.extractLsb' 28 4 = w.extractLsb' 28 4)
    (h24 : v.extractLsb' 24 4 = w.extractLsb' 24 4) (hrset : v.extractLsb' 23 1 = w.extractLsb' 23 1)
    (h18 : v.extractLsb' 18 5 = w.extractLsb' 18 5) (hrcode : v.extractLsb' 16 2 = w.extractLsb' 16 2)
    (hoset : v.extractLsb' 15 1 = w.extractLsb' 15 1) (h12 : v.extractLsb' 12 3 = w.extractLsb' 12 3)
    (hocode : v.extractLsb' 8 4 = w.extractLsb' 8 4) (hhset : v.extractLsb' 7 1 = w.extractLsb' 7 1)
    (h3 : v.extractLsb' 3 4 = w.extractLsb' 3 4) (hhcode : v.extractLsb' 0 3 = w.extractLsb' 0 3) : v = w :=
  eq_of_extractLsb' (extractLsb'_join hhcode (extractLsb'_join h3 (extractLsb'_join hhset (extractLsb'_join hocode
    (extractLsb'_join h12 (extractLsb'_join hoset (extractLsb'_join hrcode (extractLsb'_join h18
      (extractLsb'_join hrset (extractLsb'_join h24 hop))))))))))

/-- Words of format Z are equal when their opcodes are. -/
theorem eq_of_fieldsZ {v w : Word} (hop : v.extractLsb' 28 4 = w.extractLsb' 28 4)
    (hrest : v.extractLsb' 0 28 = w.extractLsb' 0 28) : v = w :=
  eq_of_extractLsb' (extractLsb'_join hrest hop)

theorem encodeA_of_fields {w : Word} (op : BitVec 4) (hop : w.extractLsb' 28 4 = op)
    (hhigh : w.extractLsb' 23 5 = 0) (hlow : w.extractLsb' 4 4 = 0) :
    encodeA op (w.extractLsb' 16 7) (w.extractLsb' 8 8) (w.extractLsb' 0 4) = w :=
  eq_of_fieldsA (by simp [hop]) (by simp [hhigh]) (by simp) (by simp) (by simp [hlow]) (by simp)

/-- A word of format A that decodes has no reserved bit, no unused field, and its instruction is made of its fields. -/
theorem decodeA_eq_ok {m : BitVec 4} {w : Word} {usesData usesLen : Bool} {build : Addr → Byte → BitVec 4 → Instr}
    {i : Instr} (h : decodeA m w usesData usesLen build = .ok i) :
    w.extractLsb' 23 5 = 0 ∧ w.extractLsb' 4 4 = 0 ∧ (usesData = false → w.extractLsb' 8 8 = 0) ∧
      (usesLen = false → w.extractLsb' 0 4 = 0) ∧
      i = build (w.extractLsb' 16 7) (w.extractLsb' 8 8) (w.extractLsb' 0 4) := by
  simp only [decodeA] at h
  split_ifs at h with hres hdata hlen
  simp only [not_or, not_and, not_not] at hres hdata hlen
  exact ⟨hres.1, hres.2, hdata, hlen, (Except.ok.inj h).symm⟩

theorem encodeI_of_fields {w : Word} (hop : w.extractLsb' 28 4 = 4) (h24 : w.extractLsb' 24 4 = 0)
    (h18 : w.extractLsb' 18 5 = 0) (h12 : w.extractLsb' 12 3 = 0) (h3 : w.extractLsb' 3 4 = 0) :
    encodeI (w.getLsbD 23) (w.extractLsb' 16 2) (w.getLsbD 15) (w.extractLsb' 8 4) (w.getLsbD 7)
      (w.extractLsb' 0 3) = w :=
  eq_of_fieldsI (by simp [hop]) (by simp [h24]) (encodeI_rset.trans (extractLsb'_one_eq_iff.mpr rfl).symm)
    (by simp [h18]) (by simp) (encodeI_oset.trans (extractLsb'_one_eq_iff.mpr rfl).symm) (by simp [h12]) (by simp)
    (encodeI_hset.trans (extractLsb'_one_eq_iff.mpr rfl).symm) (by simp [h3]) (by simp)

theorem encode_of_decodeI {v : HpfVariant} {w : Word} {i : Instr} (hop : w.extractLsb' 28 4 = 4)
    (h : decodeI v w = .ok i) : encode i = .word w := by
  simp only [decodeI] at h
  split_ifs at h with hres
  simp only [not_or, not_not] at hres
  obtain ⟨h24, h18, h12, h3⟩ := hres
  rw [← Except.ok.inj h, encode, encodeI_of_fields hop h24 h18 h12 h3]

/-- A word of format Z that decodes is its opcode above zeros. -/
theorem encodeZ_of_decodeZ {w : Word} {i j : Instr} (op : BitVec 4) (hop : w.extractLsb' 28 4 = op)
    (hcode : (encodeZ op).extractLsb' 28 4 = op ∧ (encodeZ op).extractLsb' 0 28 = 0) (h : decodeZ w j = .ok i) :
    encodeZ op = w := by
  simp only [decodeZ] at h
  split_ifs at h with hzero
  exact eq_of_fieldsZ (hcode.1.trans hop.symm) (hcode.2.trans (not_not.mp hzero).symm)

theorem encode_of_decodeWord {p : Params} {w : Word} {i : Instr} (h : decodeWord p w = .ok i) :
    encode i = .word w := by
  unfold decodeWord at h
  split at h
  next hop =>
    obtain ⟨hhigh, hlow, -, hlen, rfl⟩ := decodeA_eq_ok h
    rw [encode, ← hlen rfl, encodeA_of_fields 1 (BitVec.eq_of_toNat_eq hop) hhigh hlow]
  next hop =>
    obtain ⟨hhigh, hlow, hdata, hlen, rfl⟩ := decodeA_eq_ok h
    rw [encode, ← hlen rfl, ← hdata rfl, encodeA_of_fields 2 (BitVec.eq_of_toNat_eq hop) hhigh hlow]
  next hop =>
    obtain ⟨hhigh, hlow, hdata, -, rfl⟩ := decodeA_eq_ok h
    rw [encode, ← hdata rfl, encodeA_of_fields 3 (BitVec.eq_of_toNat_eq hop) hhigh hlow]
  next hop => exact encode_of_decodeI (BitVec.eq_of_toNat_eq hop) h
  next hop => rw [decodeZ_ok h, encode, encodeZ_of_decodeZ 5 (BitVec.eq_of_toNat_eq hop) (by decide) h]
  next hop => rw [decodeZ_ok h, encode, encodeZ_of_decodeZ 6 (BitVec.eq_of_toNat_eq hop) (by decide) h]
  next hop => rw [decodeZ_ok h, encode, encodeZ_of_decodeZ 7 (BitVec.eq_of_toNat_eq hop) (by decide) h]
  next hop => rw [decodeZ_ok h, encode, encodeZ_of_decodeZ 8 (BitVec.eq_of_toNat_eq hop) (by decide) h]
  next hop => rw [decodeZ_ok h, encode, encodeZ_of_decodeZ 9 (BitVec.eq_of_toNat_eq hop) (by decide) h]
  · exact nomatch h

/-- Settles O3: a word that decodes has its format's reserved bits 0, so it is put together from the fields read. -/
theorem decodedWordIsEncoded : Obligations.DecodedWordIsEncoded := by
  unfold Obligations.DecodedWordIsEncoded
  intro p w i h
  exact ⟨encode_of_decodeWord h, decodeWord_wellFormed h, decodeWord_isCommand h⟩

/-- Settles O5: the decoder's checks are the nine items. -/
theorem illegalWordsExactly : Obligations.IllegalWordsExactly := by
  unfold Obligations.IllegalWordsExactly
  exact decodeWord_error_iff

/-- The decoder gives an instruction exactly for the word that is its encoding. -/
theorem decodeWord_eq_ok_iff {p : Params} {w : Word} {i : Instr} :
    decodeWord p w = .ok i ↔ encode i = .word w ∧ i.wellFormed p = true := by
  refine ⟨fun h => ⟨encode_of_decodeWord h, decodeWord_wellFormed h⟩, fun ⟨he, hwf⟩ => ?_⟩
  have h := decodeEncodeRoundTrip p i hwf
  rwa [he] at h

/-! ### The opcode table (spec/opcode_table.json) -/

/-- A field that a mask keeps whole is the match's. -/
theorem extractLsb'_of_and_eq {w mask value : Word} (h : w &&& mask = value) {start n : Nat}
    (hmask : mask.extractLsb' start n = BitVec.allOnes n) : w.extractLsb' start n = value.extractLsb' start n := by
  rw [← h, BitVec.extractLsb'_and, hmask, BitVec.and_allOnes]

/-- The row of WR. -/
theorem encodeA_wr_iff {w : Word} {a : Addr} {d : Byte} : encodeA 1 a d 0 = w ↔
    w &&& 0xFF8000FF = 0x10000000 ∧ w.extractLsb' 16 7 = a ∧ w.extractLsb' 8 8 = d := by
  constructor
  · rintro rfl
    refine ⟨eq_of_fieldsA ?_ ?_ ?_ ?_ ?_ ?_, by simp, by simp⟩ <;> rw [BitVec.extractLsb'_and] <;> simp
  · rintro ⟨hw, rfl, rfl⟩
    have hlen : w.extractLsb' 0 4 = 0 := extractLsb'_of_and_eq hw (by decide)
    rw [← hlen]
    exact encodeA_of_fields 1 (extractLsb'_of_and_eq hw (by decide)) (extractLsb'_of_and_eq hw (by decide))
      (extractLsb'_of_and_eq hw (by decide))

/-- The row of RD. -/
theorem encodeA_rd_iff {w : Word} {a : Addr} : encodeA 2 a 0 0 = w ↔
    w &&& 0xFF80FFFF = 0x20000000 ∧ w.extractLsb' 16 7 = a := by
  constructor
  · rintro rfl
    refine ⟨eq_of_fieldsA ?_ ?_ ?_ ?_ ?_ ?_, by simp⟩ <;> rw [BitVec.extractLsb'_and] <;> simp
  · rintro ⟨hw, rfl⟩
    have hlen : w.extractLsb' 0 4 = 0 := extractLsb'_of_and_eq hw (by decide)
    have hdata : w.extractLsb' 8 8 = 0 := extractLsb'_of_and_eq hw (by decide)
    rw [← hlen, ← hdata]
    exact encodeA_of_fields 2 (extractLsb'_of_and_eq hw (by decide)) (extractLsb'_of_and_eq hw (by decide))
      (extractLsb'_of_and_eq hw (by decide))

/-- The row of BRD. -/
theorem encodeA_brd_iff {w : Word} {a : Addr} {n : BitVec 4} : encodeA 3 a 0 n = w ↔
    w &&& 0xFF80FFF0 = 0x30000000 ∧ w.extractLsb' 16 7 = a ∧ w.extractLsb' 0 4 = n := by
  constructor
  · rintro rfl
    refine ⟨eq_of_fieldsA ?_ ?_ ?_ ?_ ?_ ?_, by simp, by simp⟩ <;> rw [BitVec.extractLsb'_and] <;> simp
  · rintro ⟨hw, rfl, rfl⟩
    have hdata : w.extractLsb' 8 8 = 0 := extractLsb'_of_and_eq hw (by decide)
    rw [← hdata]
    exact encodeA_of_fields 3 (extractLsb'_of_and_eq hw (by decide)) (extractLsb'_of_and_eq hw (by decide))
      (extractLsb'_of_and_eq hw (by decide))

/-- The row of INIT. -/
theorem encodeI_iff {w : Word} {rs os hs : Bool} {r : BitVec 2} {o : BitVec 4} {h : BitVec 3} :
    encodeI rs r os o hs h = w ↔ w &&& 0xFF7C7078 = 0x40000000 ∧
      w.getLsbD 23 = rs ∧ w.extractLsb' 16 2 = r ∧ w.getLsbD 15 = os ∧ w.extractLsb' 8 4 = o ∧
      w.getLsbD 7 = hs ∧ w.extractLsb' 0 3 = h := by
  constructor
  · rintro rfl
    refine ⟨eq_of_fieldsI ?_ ?_ ?_ ?_ ?_ ?_ ?_ ?_ ?_ ?_ ?_, ?_⟩
    case refine_12 => simp only [← extractLsb'_one_eq_iff]; simp
    all_goals rw [BitVec.extractLsb'_and]; simp
  · rintro ⟨hw, rfl, rfl, rfl, rfl, rfl, rfl⟩
    exact encodeI_of_fields (extractLsb'_of_and_eq hw (by decide)) (extractLsb'_of_and_eq hw (by decide))
      (extractLsb'_of_and_eq hw (by decide)) (extractLsb'_of_and_eq hw (by decide))
      (extractLsb'_of_and_eq hw (by decide))

theorem wellFormed_init_iff {p : Params} {rs os hs : Bool} {r : BitVec 2} {o : BitVec 4} {h : BitVec 3} :
    (Instr.init rs r os o hs h).wellFormed p = true ↔
      (if rs then r ≠ 0 else r = 0) ∧ (if os then o.toNat ≤ 10 else o = 0) ∧
      (if hs then h ≠ 7 ∧ p.variant = .full else h = 0) := by
  cases rs <;> cases os <;> cases hs <;>
    simp [Instr.wellFormed, rangeFieldOk, odrFieldOk, hpfFieldOk, and_assoc]

theorem wellFormed_brd_iff {p : Params} {a : Addr} {n : BitVec 4} :
    (Instr.brd a n).wellFormed p = true ↔ n ≠ 0 ∧ n.toNat ≤ p.maxBurst.toNat := by
  simp [Instr.wellFormed]

/-- Settles O6: a word decodes to a command if it is the command's encoding, which is what its row says. -/
theorem decodeMatchesTable : Obligations.DecodeMatchesTable := by
  unfold Obligations.DecodeMatchesTable
  intro p w a d n rs os hs r o h
  simp only [decodeWord_eq_ok_iff, encode, Code.word.injEq, encodeA_wr_iff, encodeA_rd_iff, encodeA_brd_iff,
    encodeI_iff, wellFormed_init_iff, wellFormed_brd_iff, and_assoc]
  simp [Instr.wellFormed, encodeZ, eq_comm]

/-- Settles O7: each word and frame is decoded. -/
theorem knownWordsDecode : Obligations.KnownWordsDecode := by
  unfold Obligations.KnownWordsDecode
  decide

/-! ### The payload bytes (30_encoding.md R54, R55) -/

theorem filterByte_full (o : BitVec 4) (h : BitVec 3) : filterByte .full o h = 0#1 ++ h ++ o := by
  refine BitVec.eq_of_getLsbD_eq fun i hi => ?_
  rw [BitVec.getLsbD_append, BitVec.getLsbD_append]
  rcases Nat.lt_or_ge i 4 with hlt | hge
  · simp [filterByte, hlt, hi]
  · have ho : o.getLsbD i = false := BitVec.getLsbD_of_ge o i hge
    have hh : h.getLsbD (i - 4) = true → i - 4 < 3 := BitVec.lt_of_getLsbD
    simpa [filterByte, hge.not_gt, hi, ho] using hh

theorem filterByte_minimal (o : BitVec 4) (h : BitVec 3) : filterByte .minimal o h = 0#4 ++ o :=
  BitVec.setWidth_eq_append (by decide)

theorem rangeByte_eq (r : BitVec 2) : rangeByte r = 0#6 ++ r := BitVec.setWidth_eq_append (by decide)

/-- Settles O9: the shift and the widenings put each code under zeros. -/
theorem payloadByteFields : Obligations.PayloadByteFields := by
  unfold Obligations.PayloadByteFields
  exact fun o h r => ⟨filterByte_full o h, filterByte_minimal o h, rangeByte_eq r⟩

end Sys2Proof.Machine

namespace Sys2Proof.Machine

/-! ## Frames one after another

What a frame leaves is the state that the next frame begins in, and its bracket goes before the events of the rest. -/

section
variable {s : State} {x : Xrsp} {later : List Xrsp} {kind : Kind} {tx : List Byte} {ret : Ret}

theorem writeAnswer_ok (hok : x.ok = true) : x.writeAnswer = .okDone := if_pos hok

theorem writeAnswer_err (hok : x.ok = false) : x.writeAnswer = .err x.err := if_neg (Bool.eq_false_iff.mp hok)

theorem readAnswer_err (hok : x.ok = false) (n : Nat) : x.readAnswer n = .err x.err :=
  if_neg (Bool.eq_false_iff.mp hok)

theorem framed_live (s : State) : (s.framed kind tx ret x later).live = later := rfl

theorem framed_resetIn (hr : s.resetIn = []) : (s.framed kind tx ret x later).resetIn = [] := by
  simp [State.framed, hr]

theorem framed_calm (hs : s.Calm) : (s.framed kind tx ret x later).Calm := ⟨framed_resetIn hs.1, hs.2⟩

/-- A command that ends after a frame ends after the frame's bracket. -/
theorem framed_ended (hr : s.resetIn = []) (es : List Event) (r : Response) (left : List Xrsp) :
    (s.framed kind tx ret x later).ended es r left =
      s.ended (bracket kind tx (x.answer { kind := kind, tx := tx }) ++ es) r left := by
  simp [State.ended, State.framed, State.closeFrame, State.takeAnswer, State.openFrame, State.record, bracket, hr]

/-- A command that waits after a frame waits after the frame's bracket. -/
theorem framed_waiting (hr : s.resetIn = []) (es : List Event) (kind' : Kind) (tx' : List Byte) (ret' : Ret) :
    (s.framed kind tx ret x later).waiting es kind' tx' ret' =
      ({ s with xrspIn := later, stale := 0 } : State).waiting
        (bracket kind tx (x.answer { kind := kind, tx := tx }) ++ es) kind' tx' ret' := by
  simp [State.waiting, State.framed, State.closeFrame, State.takeAnswer, State.openFrame, State.record, bracket, hr]

/-- R118: with no answer the rule waits in the bracket that it has opened. -/
theorem sendFrame_waiting (hr : s.resetIn = []) (hx : s.live = []) (k : Answer → State → Result) :
    sendFrame kind tx ret k s = .next (s.waiting [] kind tx ret) := by
  rw [sendFrame_waits hr hx]
  simp [State.waiting, State.openFrame, State.record, hr]

end

/-! ## START, GETID and ACCN -/

/-- Settles O60: after the first START the block is calm and bound as before it, with the second answer next. -/
theorem startTwiceSendsTwoFrames : Obligations.StartTwiceSendsTwoFrames := by
  unfold Obligations.StartTwiceSendsTwoFrames
  intro s x1 x2 later hs hb hok1 hok2 hx
  obtain ⟨-, -, h1⟩ := startWritesPowerCtl .reference s x1 (x2 :: later) hs
  let t := s.ended (bracket .writeOnly [0x5A, 0x00] .okDone) { status := .ok } (x2 :: later)
  obtain ⟨-, -, h2⟩ := startWritesPowerCtl .reference t x2 later hs
  simp only [hok1, writeAnswer_ok hok1, Bool.true_eq_false, false_and, if_false] at h1
  simp only [hok2, writeAnswer_ok hok2, Bool.true_eq_false, false_and, if_false] at h2
  exact ⟨t, _, h1 hb hx, h2 hb rfl, rfl, rfl, rfl⟩

section
variable {s : State} {x : Xrsp} {later : List Xrsp} {tx : List Byte} {ret : Ret}

/-- R79: the identity byte is read as RD reads its register. -/
theorem afterGetid_readAnswer (hok : x.ok = true) (n : Nat) (t : State) :
    afterGetid (x.readAnswer n) t = afterRd (x.readAnswer n) t := by
  rw [Xrsp.readAnswer, if_pos hok]
  rfl

/-- R79: under BASELINE a drawn byte takes the place of the error. -/
theorem afterGetid_err (e : Terr) (t : State) : afterGetid (.err e) t =
    if t.params.policy = .hardened then respond (.transportError e) t
    else respond { status := .ok, d0 := some (zext32 (Config.draw t.draws)) } t.drawn := by
  simp only [afterGetid, surfacesErrors_iff, raise_eq_respond]

theorem accnResponse_framed (hok : x.ok = true) (hlen : 9 < tx.length) :
    accnResponse (s.framed .duplex tx ret x later) = .ok {
      status := .ok
      d0 := some (scale (sext20 x.rx[1] x.rx[2] x.rx[3]) s.rangeSel)
      d1 := some (scale (sext20 x.rx[4] x.rx[5] x.rx[6]) s.rangeSel)
      d2 := some (scale (sext20 x.rx[7] x.rx[8] x.rx[9]) s.rangeSel) } := by
  have hlane (i : Nat) (hi : i ≤ 7) : lane (s.framed .duplex tx ret x later) i =
      .ok (sext20 x.rx[i] x.rx[i + 1] x.rx[i + 2]) := lane_framed hok (by omega) (by omega)
  simp only [accnResponse, hlane 1 (by omega), hlane 4 (by omega), hlane 7 (by omega)]
  rfl

end

/-- Settles O39: GETID is the bound check and one read, whose error HARDENED surfaces and BASELINE replaces by a
draw. -/
theorem getidReadsIdentity : Obligations.GetidReadsIdentity := by
  unfold Obligations.GetidReadsIdentity
  intro p s x later hs
  refine ⟨rfl, fun hb => needBound_ended hs hb _, fun hb hx => ⟨fun hok => ?_, fun hok hp => ?_, fun hok hp => ?_⟩⟩
  all_goals refine (needBound_bound hb _).trans ?_
  · refine sendFrame_ended hs hx ((afterGetid_readAnswer hok 2 _).trans ?_)
    have hread := afterRd_framed s x later regDEVID .getid
    rwa [if_pos hok] at hread
  · refine sendFrame_ended hs hx ?_
    rw [answer_duplex, readAnswer_err hok, afterGetid_err]
    exact if_pos hp
  · rw [sendFrame_answered hs.1 hx, answer_duplex, readAnswer_err hok, afterGetid_err]
    exact (if_neg (by simp [hp])).trans (respond_framed (s := s.drawn) hs _)

/-- Settles O42: ACCN is the bound check and ACCR's burst, whose three lanes are scaled with RANGE_SEL's constant. -/
theorem accnScalesThreeAxes : Obligations.AccnScalesThreeAxes := by
  unfold Obligations.AccnScalesThreeAxes
  intro p s x later hs
  exact ⟨rfl, fun hb => needBound_ended hs hb _, fun hb hx =>
    boundBurst_ended hs hb hx (fun _ _ => rfl) (fun _ _ => rfl) fun hok => accnResponse_framed hok (by decide)⟩

/-! ## The wire frames by themselves (30_encoding.md R50 to R52) -/

/-- A frame run by itself leaves its bracket in the trace and its bytes in the buffers. -/
theorem runFrame_answered {s : State} {x : Xrsp} {later : List Xrsp} (hr : s.resetIn = []) (hx : s.live = x :: later)
    (kind : Kind) (tx : List Byte) :
    runFrame kind tx s = .next { s with
      phase := .idle, csN := .high, txBuf := tx, rxBuf := (x.answer { kind := kind, tx := tx }).bytes, xreq := none
      xrspIn := later, stale := 0, trace := s.trace ++ bracket kind tx (x.answer { kind := kind, tx := tx }) } := by
  rw [runFrame, sendFrame_answered hr hx]
  simp [afterAlone, State.frameDone, State.closeFrame, State.takeAnswer, State.openFrame, State.record, bracket, hr]

theorem writeAnswer_bytes (x : Xrsp) : x.writeAnswer.bytes = [] := by
  cases hok : x.ok
  · rw [writeAnswer_err hok]; rfl
  · rw [writeAnswer_ok hok]; rfl

/-- Settles O43: a write frame by itself brings no byte back. -/
theorem writeFrameOnWire : Obligations.WriteFrameOnWire := by
  unfold Obligations.WriteFrameOnWire
  refine ⟨fun s addr value x later hr _ hx => ?_, by decide⟩
  have hframe : [addr.setWidth 8 <<< 1 ||| 0, value] = writeFrame addr value := by simp [writeFrame, writeByte]
  have hrun := runFrame_answered hr hx .writeOnly (writeFrame addr value)
  rw [answer_writeOnly, writeAnswer_bytes] at hrun
  rw [hframe]
  exact hrun

/-- Settles O44: a read frame by itself brings back as many bytes as it has. -/
theorem readFrameOnWire : Obligations.ReadFrameOnWire := by
  unfold Obligations.ReadFrameOnWire
  exact ⟨fun s addr x later hr _ hx => runFrame_answered hr hx .duplex (readFrame addr), by decide⟩

/-- Settles O45: a burst frame by itself brings back as many bytes as it has. -/
theorem burstFrameOnWire : Obligations.BurstFrameOnWire := by
  unfold Obligations.BurstFrameOnWire
  refine ⟨fun s addr n x later hr _ hx => ?_, fun _ => rfl, by decide, by decide⟩
  have hrun := runFrame_answered hr hx .duplex (burstFrame addr n.toNat)
  rw [answer_burstFrame] at hrun
  exact hrun

/-! ## INIT, frame by frame (41_driver_ops.md R75) -/

theorem filterByte_resolveHpf (v : HpfVariant) (o : BitVec 4) (hset : Bool) (hcode : BitVec 3) :
    filterByte v o (resolveHpf v hset hcode) = 0#1 ++ resolveHpf v hset hcode ++ o := by
  cases v
  · exact filterByte_full o _
  · exact (filterByte_minimal o 0).trans (congrArg (· ++ o) (show 0#4 = 0#1 ++ 0#3 by decide))

/-- In the MINIMAL variant a well-formed INIT leaves HPF unset. -/
theorem resolveHpf_of_wellFormed {p : Params} {rset oset hset : Bool} {rcode : BitVec 2} {ocode : BitVec 4}
    {hcode : BitVec 3} (h : (Instr.init rset rcode oset ocode hset hcode).wellFormed p = true) :
    resolveHpf p.variant hset hcode = if hset then hcode else 0 := by
  obtain ⟨-, -, hh⟩ := wellFormed_init_iff.mp h
  cases hv : p.variant
  · rfl
  · cases hset
    · rfl
    · simp [hv] at hh

section
variable {s : State} {x : Xrsp} {later : List Xrsp} (r : BitVec 2) (o : BitVec 4) (h : BitVec 3)

/-- INIT from its RANGE frame on. -/
def sendRange (s : State) : Result :=
  sendFrame .writeOnly (writeFrame regRANGE (rangeByte r)) (.initRange r o h) (afterInitRange r o h) s

/-- The state after INIT's identity read. -/
def State.identified (x : Xrsp) (later : List Xrsp) (s : State) : State :=
  s.framed .duplex (readFrame regDEVID) (.initId r o h) x later

/-- The state after INIT's FILTER frame. -/
def State.filtered (x : Xrsp) (later : List Xrsp) (s : State) : State :=
  s.framed .writeOnly (writeFrame regFILTER (filterByte s.params.variant o h)) (.initFilter r o h) x later

/-- The state after INIT's RANGE frame. -/
def State.ranged (x : Xrsp) (later : List Xrsp) (s : State) : State :=
  s.framed .writeOnly (writeFrame regRANGE (rangeByte r)) (.initRange r o h) x later

theorem initWith_err (hr : s.resetIn = []) (hx : s.live = x :: later) (hok : x.ok = false) :
    initWith r o h s = respond (.transportError x.err) (s.identified r o h x later) := by
  rw [initWith, sendFrame_answered hr hx, answer_duplex, readAnswer_err hok]
  rfl

theorem initWith_accepted (hr : s.resetIn = []) (hx : s.live = x :: later) (hok : x.ok = true)
    (hid : x.rx[1] = expectedId ∨ s.params.policy = .baseline) :
    initWith r o h s = sendFilter r o h (s.identified r o h x later) := by
  refine (initWith_answered r o h hr hx hok).trans (if_neg fun ⟨hne, hp⟩ => ?_)
  rcases hid with hid | hid
  · exact hne hid
  · exact nomatch hp.symm.trans hid

theorem sendFilter_err (hr : s.resetIn = []) (hx : s.live = x :: later) (hok : x.ok = false) :
    sendFilter r o h s = respond (.transportError x.err) (s.filtered r o h x later) := by
  rw [sendFilter, sendFrame_answered hr hx, answer_writeOnly, writeAnswer_err hok]
  rfl

theorem sendFilter_ok (hr : s.resetIn = []) (hx : s.live = x :: later) (hok : x.ok = true) :
    sendFilter r o h s = sendRange r o h (s.filtered r o h x later) := by
  rw [sendFilter, sendFrame_answered hr hx, answer_writeOnly, writeAnswer_ok hok]
  rfl

theorem sendRange_err (hr : s.resetIn = []) (hx : s.live = x :: later) (hok : x.ok = false) :
    sendRange r o h s = respond (.transportError x.err) (s.ranged r o h x later) := by
  rw [sendRange, sendFrame_answered hr hx, answer_writeOnly, writeAnswer_err hok]
  rfl

/-- The settings are latched after the RANGE frame, which reads none of them. -/
theorem sendRange_ok (hr : s.resetIn = []) (hx : s.live = x :: later) (hok : x.ok = true) :
    sendRange r o h s = respond .done ((s.latch r o h).ranged r o h x later) := by
  rw [sendRange, sendFrame_answered hr hx, answer_writeOnly, writeAnswer_ok hok]
  rfl

theorem identified_ended (hr : s.resetIn = []) (hok : x.ok = true) (es : List Event) (a : Response)
    (left : List Xrsp) : (s.identified r o h x later).ended es a left =
      s.ended (bracket .duplex [0x05, 0x00] (.okRx [x.rx[0], x.rx[1]]) ++ es) a left := by
  rw [← readAnswer_two hok]
  exact framed_ended hr es a left

theorem identified_waiting (hr : s.resetIn = []) (hok : x.ok = true) (es : List Event) (kind : Kind)
    (tx : List Byte) (ret : Ret) : (s.identified r o h x later).waiting es kind tx ret =
      ({ s with xrspIn := later, stale := 0 } : State).waiting
        (bracket .duplex [0x05, 0x00] (.okRx [x.rx[0], x.rx[1]]) ++ es) kind tx ret := by
  rw [← readAnswer_two hok]
  exact framed_waiting hr es kind tx ret

theorem filtered_ended (hr : s.resetIn = []) (hok : x.ok = true) (es : List Event) (a : Response)
    (left : List Xrsp) : (s.filtered r o h x later).ended es a left =
      s.ended (bracket .writeOnly [0x50, filterByte s.params.variant o h] .okDone ++ es) a left := by
  rw [← writeAnswer_ok hok]
  exact framed_ended hr es a left

theorem filtered_waiting (hr : s.resetIn = []) (hok : x.ok = true) (es : List Event) (kind : Kind)
    (tx : List Byte) (ret : Ret) : (s.filtered r o h x later).waiting es kind tx ret =
      ({ s with xrspIn := later, stale := 0 } : State).waiting
        (bracket .writeOnly [0x50, filterByte s.params.variant o h] .okDone ++ es) kind tx ret := by
  rw [← writeAnswer_ok hok]
  exact framed_waiting hr es kind tx ret

/-- R75: the identity read is the first frame that fails. -/
theorem initWith_ended_err (hs : s.Calm) (hx : s.live = x :: later) (hok : x.ok = false) :
    initWith r o h s =
      .next (s.ended (bracket .duplex [0x05, 0x00] (.err x.err)) (.transportError x.err) later) := by
  rw [initWith_err r o h hs.1 hx hok, ← readAnswer_err hok 2]
  exact respond_framed hs _

/-- R75: the FILTER frame is the first one that fails. -/
theorem sendFilter_ended_err (hs : s.Calm) (hx : s.live = x :: later) (hok : x.ok = false) :
    sendFilter r o h s = .next (s.ended
      (bracket .writeOnly [0x50, filterByte s.params.variant o h] (.err x.err)) (.transportError x.err) later) := by
  rw [sendFilter_err r o h hs.1 hx hok, ← writeAnswer_err hok]
  exact respond_framed hs _

/-- R75: the RANGE frame is the first one that fails. -/
theorem sendRange_ended_err (hs : s.Calm) (hx : s.live = x :: later) (hok : x.ok = false) :
    sendRange r o h s =
      .next (s.ended (bracket .writeOnly [0x58, 0#6 ++ r] (.err x.err)) (.transportError x.err) later) := by
  rw [sendRange_err r o h hs.1 hx hok, ← writeAnswer_err hok, ← rangeByte_eq]
  exact respond_framed hs _

/-- R75: the RANGE frame succeeds, the settings are latched and the block is bound. -/
theorem sendRange_ended_ok (hs : s.Calm) (hx : s.live = x :: later) (hok : x.ok = true) :
    sendRange r o h s =
      .next ((s.ended (bracket .writeOnly [0x58, 0#6 ++ r] .okDone) .done later).latch r o h) := by
  rw [sendRange_ok r o h hs.1 hx hok, ← writeAnswer_ok hok, ← rangeByte_eq]
  exact respond_framed (s := s.latch r o h) hs _

end

/-! ### INIT -/

section
variable {s : State} {x1 x2 x3 : Xrsp} {later : List Xrsp} {rset oset hset : Bool} {rcode : BitVec 2}
  {ocode : BitVec 4} {hcode : BitVec 3}

/-- What INIT resolves to is latched as it is: the hardwired HPF_SEL is what the MINIMAL variant resolves to. -/
theorem latch_resolveHpf (t : State) (r : BitVec 2) (o : BitVec 4) :
    t.latch r o (resolveHpf t.params.variant hset hcode) =
      { t with bound := true, rangeSel := r, odrSel := o, hpfSel := resolveHpf t.params.variant hset hcode } := by
  unfold State.latch
  cases t.params.variant <;> rfl

/-- Settles O34: INIT goes through its three frames, each of which begins where the one before it left the block. -/
theorem initSucceeds : Obligations.InitSucceeds := by
  unfold Obligations.InitSucceeds
  intro s rset oset hset rcode ocode hcode x1 x2 x3 later hs hb hx hok1 hok2 hok3 hid hwf r o h
  have hh : h = resolveHpf s.params.variant hset hcode := (resolveHpf_of_wellFormed hwf).symm
  have hf : 0#1 ++ h ++ o = filterByte s.params.variant o h := hh ▸ (filterByte_resolveHpf _ o hset hcode).symm
  let t := s.identified r o h x1 (x2 :: x3 :: later)
  have ht : t.Calm := framed_calm hs
  have hu : (t.filtered r o h x2 (x3 :: later)).Calm := framed_calm ht
  calc exec (.init rset rcode oset ocode hset hcode) s
      = initWith r o h s := by rw [exec_init_unbound _ _ _ _ _ _ hb, hh]; rfl
    _ = sendFilter r o h t := initWith_accepted r o h hs.1 hx hok1 hid
    _ = sendRange r o h (t.filtered r o h x2 (x3 :: later)) := sendFilter_ok r o h ht.1 rfl hok2
    _ = _ := sendRange_ended_ok r o h hu rfl hok3
    _ = _ := by
      rw [filtered_ended r o h ht.1 hok2, identified_ended r o h hs.1 hok1, ← List.append_assoc, hf, hh]
      exact congrArg _ (latch_resolveHpf (s.ended _ _ later) r o)

/-- Settles O35: the frames before the failing one go through, and the failing one is answered at once. -/
theorem initStopsAtFirstError : Obligations.InitStopsAtFirstError := by
  unfold Obligations.InitStopsAtFirstError
  intro s rset oset hset rcode ocode hcode x1 x2 x3 later hs hb hwf r o h i
  have hh : h = resolveHpf s.params.variant hset hcode := (resolveHpf_of_wellFormed hwf).symm
  have hf : 0#1 ++ h ++ o = filterByte s.params.variant o h := hh ▸ (filterByte_resolveHpf _ o hset hcode).symm
  have hi : exec i s = initWith r o h s := by rw [exec_init_unbound _ _ _ _ _ _ hb, hh]; rfl
  rw [hi, hf]
  have ht (left : List Xrsp) : (s.identified r o h x1 left).Calm := framed_calm hs
  have hu : ((s.identified r o h x1 (x2 :: x3 :: later)).filtered r o h x2 (x3 :: later)).Calm := framed_calm (ht _)
  refine ⟨fun hx hok1 => initWith_ended_err r o h hs hx hok1, fun hx hok1 hid hok2 => ?_,
    fun hx hok1 hid hok2 hok3 => ?_⟩
  · rw [initWith_accepted r o h hs.1 hx hok1 hid, sendFilter_ended_err r o h (ht _) rfl hok2,
      identified_ended r o h hs.1 hok1]
    rfl
  · rw [initWith_accepted r o h hs.1 hx hok1 hid, sendFilter_ok r o h (ht _).1 rfl hok2,
      sendRange_ended_err r o h hu rfl hok3, filtered_ended r o h (ht _).1 hok2,
      identified_ended r o h hs.1 hok1, ← List.append_assoc]
    rfl

end

/-! ## Waiting for the transport (70_reset_and_hazards.md R118) -/

/-- Settles O46: a frame without an answer waits in its bracket, after the brackets of the frames before it. -/
theorem unansweredTransferWaits : Obligations.UnansweredTransferWaits := by
  unfold Obligations.UnansweredTransferWaits
  constructor
  · intro s hr hx
    have waits (kind : Kind) (tx : List Byte) (ret : Ret) (k : Answer → State → Result) :
        sendFrame kind tx ret k s = .next (s.waiting [] kind tx ret) := sendFrame_waiting hr hx k
    refine ⟨fun _ _ => waits .., fun _ => waits .., fun _ _ => waits .., fun hb => ?_, fun _ _ => waits ..,
      fun _ => waits .., fun _ _ => waits ..⟩
    have bound (kind : Kind) (tx : List Byte) (ret : Ret) (k : Answer → State → Result) :
        needBound (sendFrame kind tx ret k) s = .next (s.waiting [] kind tx ret) :=
      (needBound_bound hb _).trans (waits ..)
    exact ⟨bound .., bound .., bound .., bound .., bound ..⟩
  · intro s rset oset hset rcode ocode hcode hr hb r o h i answered
    have hf : 0#1 ++ h ++ o = filterByte s.params.variant o h := (filterByte_resolveHpf _ o hset hcode).symm
    have hi : exec i s = initWith r o h s := exec_init_unbound _ _ _ _ _ _ hb
    have ht (x1 : Xrsp) (left : List Xrsp) : (s.identified r o h x1 left).resetIn = [] := framed_resetIn hr
    have hu (x1 x2 : Xrsp) : ((s.identified r o h x1 [x2]).filtered r o h x2 []).resetIn = [] := framed_resetIn (ht ..)
    rw [hi, hf]
    refine ⟨fun hx => sendFrame_waiting hr hx _, fun x1 hok1 hid => ⟨fun hx => ?_, fun x2 hok2 hx => ?_⟩⟩
    · rw [initWith_accepted r o h hr hx hok1 hid, sendFilter, sendFrame_waiting (ht x1 []) rfl,
        identified_waiting r o h hr hok1]
      rfl
    · rw [initWith_accepted r o h hr hx hok1 hid, sendFilter_ok r o h (ht x1 [x2]) rfl hok2, sendRange,
        sendFrame_waiting (hu x1 x2) rfl, filtered_waiting r o h (ht x1 [x2]) hok2, rangeByte_eq]
      exact congrArg _ (identified_waiting (later := []) r o h hr hok1 _ _ _ _)

end Sys2Proof.Machine

namespace Sys2Proof.Machine

/-! ## What a step finds -/

/-- Settles O25: with no RESET due, the step fetches the frame. -/
theorem stepRunsDecodedFrame : Obligations.StepRunsDecodedFrame := by
  unfold Obligations.StepRunsDecodedFrame
  exact fun s i hp hr hd => step_send (resetDue_of_none hr) hp hd

theorem deliver_not_ready {s : State} (hr : s.resetIn = []) (hy : s.rspReady = false) : deliver s = .next s := by
  refine (guardReset_of_none hr _).trans (congrArg Host.Outcome.next ?_)
  rcases handOver_cases s with ⟨_, -, h, -⟩ | h
  · exact nomatch hy.symm.trans h
  · exact h

theorem awaitAnswer_unanswered {s : State} (hr : s.resetIn = []) (hx : s.live = []) (k : Answer → State → Result) :
    awaitAnswer k s = .next s := by
  refine (guardReset_of_none hr _).trans ?_
  rcases exchange_cases k s with h | ⟨q, x, later, -, hx', -⟩
  · exact h
  · exact nomatch hx.symm.trans hx'

/-- Settles O27: each of the three waits is a step to the same state. -/
theorem stepWaits : Obligations.StepWaits := by
  unfold Obligations.StepWaits
  intro s hr hwait
  have hd := resetDue_of_none hr
  rcases hwait with ⟨hp, hc⟩ | ⟨ret, q, hp, -, hx⟩ | ⟨hp, hy⟩
  · exact step_idle hd hp hc
  · exact (step_await hd hp).trans (awaitAnswer_unanswered hr hx _)
  · exact (step_respond hd hp).trans (deliver_not_ready hr hy)

/-- Settles O49: the reset state is idle, with the default settings and an empty trace. -/
theorem invariantsHoldAtReset : Obligations.InvariantsHoldAtReset := by
  unfold Obligations.InvariantsHoldAtReset
  decide

/-- Settles O59: status by status. -/
theorem statusCodes : Obligations.StatusCodes := by
  unfold Obligations.StatusCodes
  refine ⟨rfl, rfl, rfl, rfl, rfl, rfl, fun a b => ?_, fun a => ?_⟩
  · cases a <;> cases b <;> decide
  · cases a <;> decide

/-! ## Two runs side by side

Several statements compare a run with the run from a state that differs in what no rule looks at. `Paired R Q` says
once what such a comparison needs: `R` relates states between frames, `Q` what operations answer. -/

variable {R : State → State → Prop} {Q : Result → Result → Prop}

/-- `R` relates states in which rules do alike, with results related by `Q`; the received bytes from rx(1) on, which
are all that a rule reads, are the same. -/
structure Paired (R : State → State → Prop) (Q : Result → Result → Prop) : Prop where
  params {s u} : R s u → s.params = u.params
  bound {s u} : R s u → s.bound = u.bound
  rangeSel {s u} : R s u → s.rangeSel = u.rangeSel
  draws {s u} : R s u → s.draws = u.draws
  rx {s u} : R s u → ∀ i, s.rx (i + 1) = u.rx (i + 1)
  drawn {s u} : R s u → R s.drawn u.drawn
  latch {s u} : R s u → ∀ r o h, R (s.latch r o h) (u.latch r o h)
  respond {s u} : R s u → ∀ r, Q (respond r s) (respond r u)
  fault f : Q (.fault f) (.fault f)
  frameDone {s u} : R s u → Q (.next s.frameDone) (.next u.frameDone)
  sendFrame {s u} : R s u → ∀ kind tx ret,
    (∀ a b s u, a.dropSlot0 = b.dropSlot0 → R s u → Q (resumeAt ret a s) (resumeAt ret b u)) →
    Q (sendFrame kind tx ret (resumeAt ret) s) (sendFrame kind tx ret (resumeAt ret) u)

namespace Paired

section
variable (hR : Paired R Q) {s u : State} (h : R s u)
include hR h

theorem respondWith {f : State → Except Fault Response} (hf : f s = f u) :
    Q (respondWith (f s) s) (respondWith (f u) u) := by
  rw [hf]
  rcases respondWith_cases (f u) u with ⟨a, ha, -⟩ | ⟨e, he, -⟩
  · rw [ha]; exact hR.respond h a
  · rw [he]; exact hR.fault e

theorem byteResponse : byteResponse s = byteResponse u := by simp only [Machine.byteResponse, hR.rx h 0]

theorem rxBytes (n i : Nat) : s.rxBytes (i + 1) n = u.rxBytes (i + 1) n := by
  induction n generalizing i with
  | zero => rfl
  | succ n ih => rw [State.rxBytes, State.rxBytes, hR.rx h i, ih]

theorem burstResponse (len : BitVec 4) : burstResponse len s = burstResponse len u := by
  simp only [Machine.burstResponse, hR.rxBytes h len.toNat 0]

theorem tempResponse : tempResponse s = tempResponse u := by
  simp only [Machine.tempResponse, hR.rx h 0, hR.rx h 1]

theorem lane (i : Nat) : lane s (i + 1) = lane u (i + 1) := by
  simp only [Machine.lane, hR.rx h i, hR.rx h (i + 1), hR.rx h (i + 2)]

theorem accrResponse : accrResponse s = accrResponse u := by
  simp only [Machine.accrResponse, hR.lane h 0, hR.lane h 3, hR.lane h 6]

theorem accnResponse : accnResponse s = accnResponse u := by
  simp only [Machine.accnResponse, hR.lane h 0, hR.lane h 3, hR.lane h 6, hR.rangeSel h]

omit hR h in
/-- A rest that on an error does as `e`, and otherwise as `k`. -/
theorem rest {a b : Answer} (hab : a.dropSlot0 = b.dropSlot0) {k : State → Result} {rest : Answer → State → Result}
    (he : ∀ e, Q (rest (.err e) s) (rest (.err e) u)) (hk : Q (k s) (k u))
    (hr : ∀ b s, rest (.okRx b) s = k s) (hd : ∀ s, rest .okDone s = k s) : Q (rest a s) (rest b u) := by
  cases a <;> cases b <;> simp only [Answer.dropSlot0, reduceCtorEq, Answer.err.injEq] at hab
  · rwa [hr, hr]
  · rwa [hd, hd]
  · rw [hab]; exact he _

theorem checkId (r : BitVec 2) (o : BitVec 4) (f : BitVec 3)
    (hnext : ∀ a b s u, a.dropSlot0 = b.dropSlot0 → R s u →
      Q (resumeAt (.initFilter r o f) a s) (resumeAt (.initFilter r o f) b u)) :
    Q (checkId r o f s) (checkId r o f u) := by
  simp only [Machine.checkId, hR.rx h 0, hR.params h]
  cases u.rx 1 with
  | error e => exact hR.fault e
  | ok id =>
      dsimp only
      split
      · exact hR.respond h _
      · exact hR.sendFrame h _ _ _ hnext

end

/-- The rest of every rule does alike on answers that differ in the byte of the address slot alone. -/
theorem resumeAt (hR : Paired R Q) (ret : Ret) {a b : Answer} (hab : a.dropSlot0 = b.dropSlot0) {s u : State}
    (h : R s u) : Q (resumeAt ret a s) (resumeAt ret b u) := by
  induction ret using Ret.next_induction generalizing a b s u with
  | step ret ih =>
      have next {ret'} (hn : ret.next = some ret') (a b : Answer) (s u : State) (hab : a.dropSlot0 = b.dropSlot0)
          (h : R s u) : Q (Machine.resumeAt ret' a s) (Machine.resumeAt ret' b u) := ih ret' hn hab h
      have err (e : Terr) : Q (raise (.transportError e) s) (raise (.transportError e) u) := hR.respond h _
      cases ret with
      | wr => exact rest hab err (hR.respond h .done) (fun _ _ => rfl) fun _ => rfl
      | rd => exact rest hab err (hR.respondWith h (hR.byteResponse h)) (fun _ _ => rfl) fun _ => rfl
      | brd len => exact rest hab err (hR.respondWith h (hR.burstResponse h len)) (fun _ _ => rfl) fun _ => rfl
      | initId r o f => exact rest hab err (hR.checkId h r o f (next rfl)) (fun _ _ => rfl) fun _ => rfl
      | initFilter r o f => exact rest hab err (hR.sendFrame h _ _ _ (next rfl)) (fun _ _ => rfl) fun _ => rfl
      | initRange r o f =>
          exact rest (k := fun s => Machine.respond .done (s.latch r o f)) hab err (hR.respond (hR.latch h r o f) .done)
            (fun _ _ => rfl) fun _ => rfl
      | start =>
          refine rest hab (fun e => ?_) (hR.respond h .done) (fun _ _ => rfl) fun _ => rfl
          simp only [Machine.resumeAt, afterStart, hR.params h]
          split
          · exact err e
          · exact hR.respond h .done
      | getid =>
          refine rest hab (fun e => ?_) (hR.respondWith h (hR.byteResponse h)) (fun _ _ => rfl) fun _ => rfl
          simp only [Machine.resumeAt, afterGetid, hR.params h, hR.draws h]
          split
          · exact err e
          · exact hR.respond (hR.drawn h) _
      | temp => exact rest hab err (hR.respondWith h (hR.tempResponse h)) (fun _ _ => rfl) fun _ => rfl
      | accr => exact rest hab err (hR.respondWith h (hR.accrResponse h)) (fun _ _ => rfl) fun _ => rfl
      | accn => exact rest hab err (hR.respondWith h (hR.accnResponse h)) (fun _ _ => rfl) fun _ => rfl
      | alone => exact hR.frameDone h

theorem exec (hR : Paired R Q) (i : Instr) {s u : State} (h : R s u) : Q (exec i s) (exec i u) := by
  have send (kind : Kind) (tx : List Byte) (ret : Ret) :
      Q (Machine.sendFrame kind tx ret (Machine.resumeAt ret) s)
        (Machine.sendFrame kind tx ret (Machine.resumeAt ret) u) :=
    hR.sendFrame h kind tx ret fun _ _ _ _ hab h => hR.resumeAt ret hab h
  have bound (kind : Kind) (tx : List Byte) (ret : Ret) :
      Q (needBound (Machine.sendFrame kind tx ret (Machine.resumeAt ret)) s)
        (needBound (Machine.sendFrame kind tx ret (Machine.resumeAt ret)) u) := by
    simp only [needBound, hR.bound h]
    split
    · exact send kind tx ret
    · exact hR.respond h .notBound
  cases i with
  | wr | rd | brd | wrframe | rdframe | brdframe => exact send _ _ _
  | init rset rcode oset ocode hset hcode =>
      simp only [Machine.exec, execInit, hR.bound h, hR.params h]
      split
      · exact hR.respond h .alreadyBound
      · exact send _ _ _
  | start | getid | temp | accr | accn => exact bound _ _ _

end Paired

/-! ### Resuming (10_state.md R16, R27) -/

theorem live_answeredBy {s : State} {x : Xrsp} {later : List Xrsp} (hx : s.live = x :: later) (ys : List Xrsp) :
    (s.answeredBy ys).live = x :: (later ++ ys) := by
  have hle : s.stale ≤ s.xrspIn.length := by
    by_contra hlt
    exact nomatch hx.symm.trans (List.drop_eq_nil_of_le (Nat.le_of_not_le hlt))
  rw [State.live, State.answeredBy_xrspIn, State.answeredBy_stale, List.drop_append_of_le_length hle]
  exact congrArg (· ++ ys) hx

/-- A step from a wait is the wait, RESET or not. -/
theorem step_eq_awaitAnswer {s : State} {ret : Ret} (hp : s.phase = .busy (.await ret)) :
    step s = awaitAnswer (resumeAt ret) s := by
  cases hd : s.resetDue with
  | true => exact (step_due hd).trans (if_pos hd).symm
  | false => exact step_await hd hp

/-- Where `o` waits, the step from there with the answers `ys` gives `o'`. -/
def ResumesTo (ys : List Xrsp) (o o' : Result) : Prop :=
  ∀ t ret, o = .next t → t.phase = .busy (.await ret) → step (t.answeredBy ys) = o'

theorem resumesTo_of_not_await {ys : List Xrsp} {t : State} {o' : Result} (h : ∀ ret, t.phase ≠ .busy (.await ret)) :
    ResumesTo ys (.next t) o' := by
  rintro _ ret ⟨⟩ hp
  exact absurd hp (h ret)

theorem resumesTo_respond (ys : List Xrsp) (r : Response) (s : State) (o' : Result) :
    ResumesTo ys (respond r s) o' := by
  rcases respond_cases r s with h | h | h <;> rw [h] <;> exact resumesTo_of_not_await nofun

theorem ResumesTo.guardReset {ys : List Xrsp} {k k' : State → Result} {s : State}
    (h : s.resetDue = false → ResumesTo ys (k s) (k' (s.answeredBy ys))) :
    ResumesTo ys (guardReset k s) (guardReset k' (s.answeredBy ys)) := by
  unfold Machine.guardReset
  rw [show (s.answeredBy ys).resetDue = s.resetDue from rfl]
  cases hd : s.resetDue with
  | true => exact resumesTo_of_not_await nofun
  | false => exact h hd

/-- Waiting at `ret`: either the answer is there, or the step from the wait finds the answer among `ys`. -/
theorem resumesTo_awaitAnswer {ys : List Xrsp} {s : State} {ret : Ret} {q : Request}
    (hp : s.phase = .busy (.await ret)) (hq : s.xreq = some q)
    (hk : ∀ a s, ResumesTo ys (resumeAt ret a s) (resumeAt ret a (s.answeredBy ys))) :
    ResumesTo ys (awaitAnswer (resumeAt ret) s) (awaitAnswer (resumeAt ret) (s.answeredBy ys)) := by
  cases hx : s.live with
  | nil =>
      rcases awaitAnswer_cases (resumeAt ret) s with h | h | ⟨_, _, _, -, hx', -⟩
      · rw [h]; exact resumesTo_of_not_await nofun
      · rw [h]
        rintro _ ret' ⟨⟩ -
        exact step_eq_awaitAnswer (s := s.answeredBy ys) hp
      · exact nomatch hx.symm.trans hx'
  | cons x later =>
      refine ResumesTo.guardReset fun _ => ?_
      simp only [exchange, hq, hx, show (s.answeredBy ys).xreq = some q from hq, live_answeredBy hx ys]
      exact ResumesTo.guardReset (s := s.takeAnswer q x later) fun _ => hk _ _

/-- A run and the run with more answers to come. -/
theorem paired_answeredBy (ys : List Xrsp) : Paired (fun s u => u = s.answeredBy ys) (ResumesTo ys) where
  params := by rintro s _ rfl; rfl
  bound := by rintro s _ rfl; rfl
  rangeSel := by rintro s _ rfl; rfl
  draws := by rintro s _ rfl; rfl
  rx := by rintro s _ rfl i; rfl
  drawn := by rintro s _ rfl; rfl
  latch := by rintro s _ rfl r o h; rfl
  respond := by rintro s _ rfl r; exact resumesTo_respond ys r s _
  fault f := fun _ _ h => nomatch h
  frameDone := by rintro s _ rfl; exact resumesTo_of_not_await nofun
  sendFrame := by
    rintro s _ rfl kind tx ret hk
    refine ResumesTo.guardReset (k := fun s => awaitAnswer (resumeAt ret) (s.openFrame kind tx ret)) fun _ => ?_
    have hk (a : Answer) (s : State) := hk a a s (s.answeredBy ys) rfl rfl
    exact resumesTo_awaitAnswer (s := s.openFrame kind tx ret) rfl rfl hk

/-- Settles O28: a wait is part of the instruction's run, and its step goes on with the answers of the longer run. -/
theorem stepResumesRule : Obligations.StepResumesRule := by
  unfold Obligations.StepResumesRule
  refine ⟨fun i s t ret ys ht hp => (paired_answeredBy ys).exec i rfl t ret ht hp, ?_⟩
  intro s ret q x later hr hp hq hx
  rw [step_eq_awaitAnswer hp, awaitAnswer_answered hr hq hx]
  simp [State.closeFrame, State.takeAnswer, State.record, hr]

/-! ### The steps of two runs -/

/-- What a comparison of two runs needs beside `Paired`, for their steps. -/
structure PairedSteps (R : State → State → Prop) (Q : Result → Result → Prop) : Prop extends Paired R Q where
  phase {s u} : R s u → s.phase = u.phase
  cmdIn {s u} : R s u → s.cmdIn = u.cmdIn
  txBuf {s u} : R s u → s.txBuf = u.txBuf
  resetDue {s u} : R s u → s.resetDue = u.resetDue
  accept {s u} : R s u → ∀ w later, R (s.accept w later) (u.accept w later)
  begin {s u} : R s u → ∀ i, R (s.begin i) (u.begin i)
  applyReset {s u} : R s u → Q (.next s.applyReset) (.next u.applyReset)
  idle {s u} : R s u → s.phase = .idle → Q (.next s) (.next u)
  refused r : Q (.refused r) (.refused r)
  awaitAnswer {s u} : R s u → ∀ ret, s.phase = .busy (.await ret) →
    Q (awaitAnswer (resumeAt ret) s) (awaitAnswer (resumeAt ret) u)
  deliver {s u} : R s u → s.phase = .busy .respond → Q (deliver s) (deliver u)

theorem PairedSteps.step (hR : PairedSteps R Q) {s u : State} (h : R s u) : Q (step s) (step u) := by
  have hdue := hR.resetDue h
  have hphase := hR.phase h
  cases hd : s.resetDue with
  | true => rw [step_due hd, step_due (hdue ▸ hd)]; exact hR.applyReset h
  | false =>
      have hd' : u.resetDue = false := hdue ▸ hd
      cases hp : s.phase with
      | idle =>
          have hp' : u.phase = .idle := hphase ▸ hp
          cases hc : s.cmdIn with
          | nil => rw [step_idle hd hp hc, step_idle hd' hp' (hR.cmdIn h ▸ hc)]; exact hR.idle h hp
          | cons w later =>
              have hc' : u.cmdIn = w :: later := hR.cmdIn h ▸ hc
              have ha := hR.accept h w later
              cases hw : decodeWord s.params w with
              | ok i =>
                  rw [step_command hd hp hc hw, step_command hd' hp' hc' (hR.params h ▸ hw)]
                  exact hR.exec i (hR.begin ha i)
              | error e =>
                  rw [step_illegal hd hp hc hw, step_illegal hd' hp' hc' (hR.params h ▸ hw)]
                  exact hR.respond ha _
      | busy pos =>
          have hp' : u.phase = .busy pos := hphase ▸ hp
          cases pos with
          | start i => rw [step_start hd hp, step_start hd' hp']; exact hR.exec i h
          | send =>
              cases hf : decodeFrame s.txBuf with
              | ok i =>
                  rw [step_send hd hp hf, step_send hd' hp' (hR.txBuf h ▸ hf)]
                  exact hR.exec i h
              | error e =>
                  rw [step_send_error hd hp hf, step_send_error hd' hp' (hR.txBuf h ▸ hf), hR.txBuf h]
                  split
                  · exact hR.fault _
                  · exact hR.refused _
          | await ret => rw [step_await hd hp, step_await hd' hp']; exact hR.awaitAnswer h ret hp
          | respond => rw [step_respond hd hp, step_respond hd' hp']; exact hR.deliver h hp

end Sys2Proof.Machine

namespace Sys2Proof.Machine

/-! ## A host that is not ready (10_state.md R26) -/

/-- A step from an offered response is the handshake, RESET or not. -/
theorem step_eq_deliver {s : State} (hp : s.phase = .busy .respond) : step s = deliver s := by
  cases hd : s.resetDue with
  | true => exact (step_due hd).trans (if_pos hd).symm
  | false => exact step_respond hd hp

/-- The state with the host ready. -/
def State.hostReady (s : State) : State := { s with rspReady := true }

/-- A run with a host that is not ready, and the run with a ready host. -/
def NotReady (s u : State) : Prop := s.rspReady = false ∧ u = s.hostReady

/-- If `o` ends with a response on offer, `P` holds and the step with a ready host gives `o'`; otherwise `o` ends as
`o'`. -/
def TakenLater (P : State → Prop) (o o' : Result) : Prop :=
  ∀ t, o = .next t →
    (t.phase = .busy .respond → P t ∧ step t.hostReady = o') ∧ (t.phase ≠ .busy .respond → o' = .next t.hostReady)

section
variable {P : State → Prop} {s u : State}

theorem takenLater_next {t : State} (hp : t.phase ≠ .busy .respond) : TakenLater P (.next t) (.next t.hostReady) := by
  rintro _ ⟨⟩
  exact ⟨fun h => absurd h hp, fun _ => rfl⟩

theorem TakenLater.guardReset {k k' : State → Result} (h : NotReady s u)
    (hk : s.resetDue = false → TakenLater P (k s) (k' u)) : TakenLater P (guardReset k s) (guardReset k' u) := by
  obtain ⟨-, rfl⟩ := h
  unfold Machine.guardReset
  rw [show s.hostReady.resetDue = s.resetDue from rfl]
  cases hd : s.resetDue with
  | true => exact takenLater_next (t := s.applyReset) nofun
  | false => exact hk hd

theorem takenLater_deliver (h : NotReady s u) (hp : s.phase = .busy .respond) (hs : P s) :
    TakenLater P (deliver s) (deliver u) := by
  refine TakenLater.guardReset (k := fun s => .next s.handOver) h fun hd => ?_
  obtain ⟨hy, rfl⟩ := h
  have hstay : s.handOver = s := by
    rcases handOver_cases s with ⟨_, -, hy', -⟩ | h
    · exact nomatch hy.symm.trans hy'
    · exact h
  have hstep : step s.hostReady = .next s.hostReady.handOver :=
    (step_eq_deliver (s := s.hostReady) hp).trans (if_neg (Bool.eq_false_iff.mp hd))
  rw [hstay]
  rintro _ ⟨⟩
  exact ⟨fun _ => ⟨hs, hstep⟩, fun hne => absurd hp hne⟩

theorem takenLater_awaitAnswer (h : NotReady s u) {ret : Ret} (hp : s.phase = .busy (.await ret))
    {k : Answer → State → Result}
    (hk : ∀ a s u, NotReady s u → TakenLater P (k a s) (k a u)) :
    TakenLater P (awaitAnswer k s) (awaitAnswer k u) := by
  refine TakenLater.guardReset (k := exchange k) h fun _ => ?_
  obtain ⟨hy, rfl⟩ := h
  have hwait : TakenLater P (.next s) (.next s.hostReady) := takenLater_next (hp ▸ nofun)
  simp only [exchange, show s.hostReady.xreq = s.xreq from rfl, show s.hostReady.live = s.live from rfl]
  cases s.xreq with
  | none => exact hwait
  | some q =>
      cases s.live with
      | nil => exact hwait
      | cons x later =>
          exact TakenLater.guardReset (k := fun t => k (x.answer q) t.closeFrame) (s := s.takeAnswer q x later)
            ⟨hy, rfl⟩ fun _ => hk _ _ _ ⟨hy, rfl⟩

end

/-- A run with a host that is not ready, and the run with a ready host. -/
theorem paired_notReady {P : State → Prop} (hP : ∀ s, s.rsp.isSome = true → P s) :
    Paired NotReady (TakenLater P) where
  params := by rintro s _ ⟨-, rfl⟩; rfl
  bound := by rintro s _ ⟨-, rfl⟩; rfl
  rangeSel := by rintro s _ ⟨-, rfl⟩; rfl
  draws := by rintro s _ ⟨-, rfl⟩; rfl
  rx := by rintro s _ ⟨-, rfl⟩ i; rfl
  drawn := by rintro s _ ⟨hy, rfl⟩; exact ⟨hy, rfl⟩
  latch := by rintro s _ ⟨hy, rfl⟩ r o h; exact ⟨hy, rfl⟩
  respond := by rintro s _ ⟨hy, rfl⟩ r; exact takenLater_deliver (s := s.offer r) ⟨hy, rfl⟩ rfl (hP _ rfl)
  fault f := fun _ h => nomatch h
  frameDone := by rintro s _ ⟨-, rfl⟩; exact takenLater_next (t := s.frameDone) nofun
  sendFrame := by
    rintro s _ ⟨hy, rfl⟩ kind tx ret hk
    refine TakenLater.guardReset (k := fun s => awaitAnswer (resumeAt ret) (s.openFrame kind tx ret)) ⟨hy, rfl⟩
      fun _ => ?_
    have hk (a : Answer) (s u : State) := hk a a s u rfl
    exact takenLater_awaitAnswer (s := s.openFrame kind tx ret) ⟨hy, rfl⟩ rfl hk

theorem pairedSteps_notReady : PairedSteps NotReady (TakenLater fun _ => True) where
  toPaired := paired_notReady fun _ _ => trivial
  phase := by rintro s _ ⟨-, rfl⟩; rfl
  cmdIn := by rintro s _ ⟨-, rfl⟩; rfl
  txBuf := by rintro s _ ⟨-, rfl⟩; rfl
  resetDue := by rintro s _ ⟨-, rfl⟩; rfl
  accept := by rintro s _ ⟨hy, rfl⟩ w later; exact ⟨hy, rfl⟩
  begin := by rintro s _ ⟨hy, rfl⟩ i; exact ⟨hy, rfl⟩
  applyReset := by rintro s _ ⟨-, rfl⟩; exact takenLater_next (t := s.applyReset) nofun
  idle := by rintro s _ ⟨-, rfl⟩ hp; exact takenLater_next (hp ▸ nofun)
  refused r := fun _ h => nomatch h
  awaitAnswer h ret hp := takenLater_awaitAnswer h hp fun _ _ _ h =>
    (paired_notReady fun _ _ => trivial).resumeAt ret rfl h
  deliver h hp := takenLater_deliver h hp trivial

/-- Settles O29: the handshake by its own rule; and a host that is not ready changes a run in nothing but its end. -/
theorem responseHandshake : Obligations.ResponseHandshake := by
  unfold Obligations.ResponseHandshake
  refine ⟨fun s r hs hp hr => ?_, fun i s t ht => ?_, fun s t ht => ?_⟩
  · obtain ⟨hnone, hy⟩ := hs
    rw [step_eq_deliver hp, deliver, guardReset_of_none hnone]
    simp [State.handOver, State.taken, State.record, hr, hy, hnone]
  · exact (paired_notReady fun _ h => h).exec i (s := { s with rspReady := false }) ⟨rfl, rfl⟩ t ht
  · obtain ⟨hoffered, hended⟩ := pairedSteps_notReady.step (s := { s with rspReady := false }) ⟨rfl, rfl⟩ t ht
    exact ⟨fun hp => (hoffered hp).2, hended⟩

/-! ## The byte of the address slot (40_framer.md R73) -/

/-- What an operation answers, without any byte received in an address slot. -/
def resultDropSlot0 : Result → Result
  | .next s => .next s.dropSlot0
  | .fault f => .fault f
  | .refused r => .refused r

/-- States that differ in bytes of address slots alone. -/
def SameButSlot0 (s u : State) : Prop := s.dropSlot0 = u.dropSlot0

/-- Results that differ in bytes of address slots alone. -/
def AgreeButSlot0 (o o' : Result) : Prop := resultDropSlot0 o = resultDropSlot0 o'

theorem tail_take_set_zero (l : List Byte) (b : Byte) (n : Nat) : ((l.set 0 b).take n).tail = (l.take n).tail := by
  cases l <;> cases n <;> rfl

/-- The answer to a request does not depend on the byte of the address slot but in that byte. -/
theorem answer_withSlot0 (b : Byte) (x : Xrsp) (q : Request) :
    ((x.withSlot0 b).answer q).dropSlot0 = (x.answer q).dropSlot0 := by
  unfold Xrsp.answer Xrsp.withSlot0
  cases x.ok
  · rfl
  · cases q.kind
    · simp [Answer.dropSlot0, Vector.toList_set, tail_take_set_zero]
    · rfl

theorem answer_dropSlot0_of_eq {x y : Xrsp} (h : x.withSlot0 0 = y.withSlot0 0) (q : Request) :
    (x.answer q).dropSlot0 = (y.answer q).dropSlot0 := by
  rw [← answer_withSlot0 0 x, h, answer_withSlot0]

theorem bytes_dropSlot0 (a : Answer) : a.dropSlot0.bytes = a.bytes.tail := by cases a <;> rfl

section
variable (s : State)

theorem dropSlot0_live : s.dropSlot0.live = s.live.map (Xrsp.withSlot0 0) := by
  simp [State.dropSlot0, State.live, List.map_drop]

theorem dropSlot0_record (e : Event) : (s.record e).dropSlot0 = s.dropSlot0.record e.dropSlot0 := by
  simp [State.dropSlot0, State.record]

theorem dropSlot0_applyReset : s.applyReset.dropSlot0 = s.dropSlot0.applyReset := by
  have hlate : s.dropSlot0.leavesLate = s.leavesLate := rfl
  simp only [State.applyReset, hlate]
  simp [State.dropSlot0, Event.dropSlot0, State.reset]

theorem dropSlot0_openFrame (kind : Kind) (tx : List Byte) (ret : Ret) :
    (s.openFrame kind tx ret).dropSlot0 = s.dropSlot0.openFrame kind tx ret := by
  simp [State.dropSlot0, State.openFrame, State.record, Event.dropSlot0]

theorem dropSlot0_takeAnswer (q : Request) (x : Xrsp) (later : List Xrsp) :
    (s.takeAnswer q x later).dropSlot0 = { s.dropSlot0.record (.xfer q.kind q.tx (x.answer q).dropSlot0) with
      xreq := none, xrspIn := later.map (Xrsp.withSlot0 0), stale := 0
      rxBuf := (x.answer q).dropSlot0.bytes } := by
  simp [State.dropSlot0, State.takeAnswer, State.record, Event.dropSlot0, bytes_dropSlot0]

theorem dropSlot0_closeFrame : s.closeFrame.dropSlot0 = s.dropSlot0.closeFrame := by
  simp [State.dropSlot0, State.closeFrame, State.record, Event.dropSlot0]

theorem dropSlot0_accept (w : Word) (later : List Word) :
    (s.accept w later).dropSlot0 = s.dropSlot0.accept w later := by
  simp [State.dropSlot0, State.accept, State.record, Event.dropSlot0]

theorem dropSlot0_handOver : s.handOver.dropSlot0 = s.dropSlot0.handOver := by
  rw [State.handOver, State.handOver, show s.dropSlot0.rsp = s.rsp from rfl,
    show s.dropSlot0.rspReady = s.rspReady from rfl]
  cases s.rsp with
  | none => rfl
  | some r =>
      cases s.rspReady
      · rfl
      · simp [State.dropSlot0, State.taken, State.record, Event.dropSlot0]

end

theorem agreeButSlot0_next {s u : State} (h : SameButSlot0 s u) : AgreeButSlot0 (.next s) (.next u) :=
  congrArg Host.Outcome.next h

/-- What reads no byte of an address slot is the same. -/
theorem SameButSlot0.same {s u : State} (h : SameButSlot0 s u) {α : Type} (f : State → α)
    (hf : ∀ s, f s.dropSlot0 = f s) : f s = f u := by
  rw [← hf, h, hf]

/-- An operation on states that goes through `dropSlot0` keeps states alike. -/
theorem SameButSlot0.map {s u : State} (h : SameButSlot0 s u) {f : State → State}
    (hf : ∀ s, (f s).dropSlot0 = f s.dropSlot0) : SameButSlot0 (f s) (f u) := by
  rw [SameButSlot0, hf, hf, h]

theorem AgreeButSlot0.guardReset {k k' : State → Result} {s u : State} (h : SameButSlot0 s u)
    (hk : AgreeButSlot0 (k s) (k' u)) : AgreeButSlot0 (guardReset k s) (guardReset k' u) := by
  have hdue : s.resetDue = u.resetDue := h.same State.resetDue fun _ => rfl
  unfold Machine.guardReset
  rw [hdue]
  split
  · exact agreeButSlot0_next (h.map dropSlot0_applyReset)
  · exact hk

theorem agreeButSlot0_deliver {s u : State} (h : SameButSlot0 s u) : AgreeButSlot0 (deliver s) (deliver u) :=
  AgreeButSlot0.guardReset h (agreeButSlot0_next (h.map dropSlot0_handOver))

theorem agreeButSlot0_awaitAnswer {k : Answer → State → Result}
    (hk : ∀ a b s u, a.dropSlot0 = b.dropSlot0 → SameButSlot0 s u → AgreeButSlot0 (k a s) (k b u)) {s u : State}
    (h : SameButSlot0 s u) : AgreeButSlot0 (awaitAnswer k s) (awaitAnswer k u) := by
  refine AgreeButSlot0.guardReset (k := exchange k) h ?_
  have hq : s.xreq = u.xreq := h.same State.xreq fun _ => rfl
  have hx : s.live.map (Xrsp.withSlot0 0) = u.live.map (Xrsp.withSlot0 0) := by
    rw [← dropSlot0_live, ← dropSlot0_live, h]
  unfold exchange
  rw [hq]
  cases u.xreq with
  | none => exact agreeButSlot0_next h
  | some q =>
      match hs : s.live, hu : u.live with
      | [], [] => exact agreeButSlot0_next h
      | [], _ :: _ | _ :: _, [] => simp [hs, hu] at hx
      | x :: later, y :: later' =>
          simp only [hs, hu, List.map_cons, List.cons.injEq] at hx
          obtain ⟨hxy, hlater⟩ := hx
          have ha := answer_dropSlot0_of_eq hxy q
          have ht : SameButSlot0 (s.takeAnswer q x later) (u.takeAnswer q y later') := by
            rw [SameButSlot0, dropSlot0_takeAnswer, dropSlot0_takeAnswer, h, ha, hlater]
          exact AgreeButSlot0.guardReset (k := fun t => k (x.answer q) t.closeFrame)
            (k' := fun t => k (y.answer q) t.closeFrame) ht (hk _ _ _ _ ha (ht.map dropSlot0_closeFrame))

theorem rx_dropSlot0 (s : State) (i : Nat) : s.dropSlot0.rx i = s.rx (i + 1) := by
  simp [State.rx, State.dropSlot0, bufferByte]

/-- Two runs that differ in bytes of address slots alone. -/
theorem paired_sameButSlot0 : Paired SameButSlot0 AgreeButSlot0 where
  params h := h.same State.params fun _ => rfl
  bound h := h.same State.bound fun _ => rfl
  rangeSel h := h.same State.rangeSel fun _ => rfl
  draws h := h.same State.draws fun _ => rfl
  rx h i := by
    rw [SameButSlot0] at h
    rw [← rx_dropSlot0, ← rx_dropSlot0, h]
  drawn h := h.map fun _ => rfl
  latch h r o f := h.map (f := State.latch r o f) fun _ => rfl
  respond h r := agreeButSlot0_deliver (h.map (f := State.offer r) fun _ => rfl)
  fault _ := rfl
  frameDone h := agreeButSlot0_next (h.map fun _ => rfl)
  sendFrame h kind tx ret hk :=
    AgreeButSlot0.guardReset h (agreeButSlot0_awaitAnswer hk (h.map (dropSlot0_openFrame · kind tx ret)))

theorem pairedSteps_sameButSlot0 : PairedSteps SameButSlot0 AgreeButSlot0 where
  toPaired := paired_sameButSlot0
  phase h := h.same State.phase fun _ => rfl
  cmdIn h := h.same State.cmdIn fun _ => rfl
  txBuf h := h.same State.txBuf fun _ => rfl
  resetDue h := h.same State.resetDue fun _ => rfl
  accept h w later := h.map (dropSlot0_accept · w later)
  begin h i := h.map (f := State.begin i) fun _ => rfl
  applyReset h := agreeButSlot0_next (h.map dropSlot0_applyReset)
  idle h _ := agreeButSlot0_next h
  refused _ := rfl
  awaitAnswer h ret _ := agreeButSlot0_awaitAnswer (fun _ _ _ _ hab h => paired_sameButSlot0.resumeAt ret hab h) h
  deliver h _ := agreeButSlot0_deliver h

theorem AgreeButSlot0.next {t : State} {o : Result} (h : AgreeButSlot0 (.next t) o) :
    ∃ t', o = .next t' ∧ t.dropSlot0 = t'.dropSlot0 := by
  cases o with
  | next t' => exact ⟨t', rfl, Host.Outcome.next.inj h⟩
  | fault f => cases h
  | refused r => cases h

theorem AgreeButSlot0.fault {f : Fault} {o : Result} (h : AgreeButSlot0 (.fault f) o) : o = .fault f := by
  cases o <;> cases h
  rfl

theorem AgreeButSlot0.refused {r : Refusal} {o : Result} (h : AgreeButSlot0 (.refused r) o) : o = .refused r := by
  cases o <;> cases h
  rfl

/-- Settles O57: no rule reads rx(0), so that two runs which differ in such bytes stay alike. -/
theorem addressSlotIgnored : Obligations.AddressSlotIgnored := by
  unfold Obligations.AddressSlotIgnored
  intro s u h
  have hstep := pairedSteps_sameButSlot0.step h
  refine ⟨fun t ht => (ht ▸ hstep).next, fun f hf => (hf ▸ hstep).fault, fun r hr => (hr ▸ hstep).refused,
    fun i t ht => ?_⟩
  have hexec := paired_sameButSlot0.exec i h
  exact (ht ▸ hexec).next

end Sys2Proof.Machine

namespace Sys2Proof.Machine

/-! ## Where RESET lands (70_reset_and_hazards.md R105, R106) -/

/-! ### The schedule -/

/-- The scheduled RESETs as they stood `n` events ago. -/
def delayed (n : Nat) : List ResetIn → List ResetIn
  | [] => []
  | r :: later => { r with after := r.after + n } :: later

theorem delayed_zero (l : List ResetIn) : delayed 0 l = l := by cases l <;> rfl

theorem delayed_delayed (m n : Nat) (l : List ResetIn) : delayed m (delayed n l) = delayed (m + n) l := by
  cases l with
  | nil => rfl
  | cons r later => simp [delayed]; omega

/-- One event is counted down while no RESET is due. -/
theorem delayed_countdown {s : State} (h : s.resetDue = false) : delayed 1 (countdown s.resetIn) = s.resetIn := by
  unfold State.resetDue at h
  cases hl : s.resetIn with
  | nil => rfl
  | cons r later =>
      rw [hl] at h
      have hpos : r.after ≠ 0 := by simpa using h
      simp only [countdown, delayed, Nat.sub_add_cancel (Nat.pos_of_ne_zero hpos)]

/-! ### A rule up to a RESET -/

/-- From `s` the events `new` have been made, none of them RSP or RESET, and no RESET was due before any of them: the
schedule has been counted down, and each transfer has taken one answer. `c` is what it takes for the last event to
tell whether a transfer is outstanding: before a command is accepted, that the line was free. -/
structure State.Ran (c : Prop) (s : State) (new : List Event) (u : State) : Prop where
  trace : u.trace = s.trace ++ new
  noRsp : ∀ r, Event.rsp r ∉ new
  noReset : Event.reset ∉ new
  resetIn : s.resetIn = delayed new.length u.resetIn
  live : ∀ ys, (u.answeredBy ys).live = (s.answeredBy ys).live.drop (new.countP Event.isXfer)
  request : c → u.xreq.isSome = s.openAfter new

variable {c : Prop}

theorem openAfter_append {s u : State} {new : List Event} (h : u.xreq.isSome = s.openAfter new) (new' : List Event) :
    u.openAfter new' = s.openAfter (new ++ new') := by
  unfold State.openAfter
  cases new' with
  | nil => simpa [State.openAfter] using h
  | cons e es => simp [List.getLast?_append, List.getLast?_cons]

theorem State.Ran.refl (s : State) : s.Ran c [] s where
  trace := by simp
  noRsp := by simp
  noReset := by simp
  resetIn := (delayed_zero _).symm
  live := by simp
  request _ := rfl

theorem State.Ran.trans {s t u : State} {new new' : List Event} (h : s.Ran c new t) (h' : t.Ran c new' u) :
    s.Ran c (new ++ new') u where
  trace := by rw [h'.trace, h.trace, List.append_assoc]
  noRsp r := by simp [h.noRsp r, h'.noRsp r]
  noReset := by simp [h.noReset, h'.noReset]
  resetIn := by rw [h.resetIn, h'.resetIn, delayed_delayed, List.length_append]
  live ys := by rw [h'.live, h.live, List.drop_drop, List.countP_append]
  request hc := by rw [h'.request hc, openAfter_append (h.request hc)]

/-- An update of no field that `Ran` speaks of. -/
theorem State.Ran.of_eq {s t : State} (htrace : t.trace = s.trace) (hreset : t.resetIn = s.resetIn)
    (hx : t.xrspIn = s.xrspIn) (hstale : t.stale = s.stale) (hreq : t.xreq = s.xreq) : s.Ran c [] t := by
  have h := Ran.refl (c := c) s
  exact { h with
    trace := by simp [htrace]
    resetIn := by rw [hreset]; exact h.resetIn
    live := fun ys => by rw [← h.live, State.live, State.live]; simp [hx, hstale]
    request := fun hc => by rw [hreq]; exact h.request hc }

/-- One event. -/
theorem State.Ran.event {s t : State} {e : Event} (hd : s.resetDue = false) (htrace : t.trace = s.trace ++ [e])
    (hreset : t.resetIn = countdown s.resetIn) (hrsp : ∀ r, e ≠ .rsp r) (hne : e ≠ .reset)
    (hlive : ∀ ys, (t.answeredBy ys).live = (s.answeredBy ys).live.drop (if e.isXfer then 1 else 0))
    (hreq : c → t.xreq.isSome = (e == .cs .low)) : s.Ran c [e] t where
  trace := htrace
  noRsp r := by simpa using (hrsp r).symm
  noReset := by simpa using hne.symm
  resetIn := by rw [hreset]; exact (delayed_countdown hd).symm
  live ys := by rw [hlive, List.countP_singleton]
  request hc := hreq hc

section
variable {s : State} (hd : s.resetDue = false)
include hd

theorem State.Ran.openFrame (kind : Kind) (tx : List Byte) (ret : Ret) :
    s.Ran c [.cs .low] (s.openFrame kind tx ret) :=
  .event hd rfl rfl nofun nofun (fun _ => rfl) fun _ => rfl

theorem State.Ran.takeAnswer {x : Xrsp} {later : List Xrsp} (hx : s.live = x :: later) (q : Request) :
    s.Ran c [.xfer q.kind q.tx (x.answer q)] (s.takeAnswer q x later) :=
  .event hd rfl rfl nofun nofun (fun ys => by rw [live_answeredBy hx]; rfl) fun _ => rfl

theorem State.Ran.closeFrame (hq : s.xreq = none) : s.Ran c [.cs .high] s.closeFrame :=
  .event hd rfl rfl nofun nofun (fun _ => rfl) fun _ => by rw [State.closeFrame_xreq, hq]; rfl

theorem State.Ran.accept (hq : c → s.xreq = none) (w : Word) (later : List Word) :
    s.Ran c [.cmd w] (s.accept w later) :=
  .event hd rfl rfl nofun nofun (fun _ => rfl) fun hc => by rw [State.accept_xreq, hq hc]; rfl

end

/-- Either RESET cut off what had run from `s`, or no RESET has landed since `s`. -/
def CutOff (c : Prop) (s : State) : State → Prop := fun t =>
  (∃ u new, s.Ran c new u ∧ u.resetDue = true ∧ t = u.applyReset) ∨ ∃ new, t.trace = s.trace ++ new ∧ Event.reset ∉ new

theorem CutOff.of_ran {s u t : State} {new : List Event} (h : s.Ran c new u) : CutOff c u t → CutOff c s t
  | .inl ⟨v, new', hv, hd, ht⟩ => .inl ⟨v, new ++ new', h.trans hv, hd, ht⟩
  | .inr ⟨new', ht, hn⟩ => .inr ⟨new ++ new', by rw [ht, h.trace, List.append_assoc], by simp [h.noReset, hn]⟩

theorem ends_of_ran {s u : State} {new : List Event} {o : Result} (h : s.Ran c new u) (ho : Ends (CutOff c u) o) :
    Ends (CutOff c s) o := fun t ht => (ho t ht).of_ran h

theorem cutOff_self (s : State) : CutOff c s s := .inr ⟨[], by simp, by simp⟩

theorem cutOff_snoc {s t : State} {e : Event} (h : t.trace = s.trace ++ [e]) (he : e ≠ .reset) : CutOff c s t :=
  .inr ⟨[e], h, by simpa using he.symm⟩

theorem cutOff_guardReset {k : State → Result} {s : State} (hk : s.resetDue = false → Ends (CutOff c s) (k s)) :
    Ends (CutOff c s) (guardReset k s) := by
  rcases guardReset_cases k s with ⟨hd, h⟩ | ⟨hd, h⟩ <;> rw [h]
  · exact ends_next (.inl ⟨s, [], .refl s, hd, rfl⟩)
  · exact hk hd

theorem cutOff_deliver (s : State) : Ends (CutOff c s) (deliver s) := by
  refine cutOff_guardReset fun _ => ends_next ?_
  rcases handOver_cases s with ⟨r, -, -, h⟩ | h <;> rw [h]
  · exact cutOff_snoc (State.taken_trace s r) nofun
  · exact cutOff_self s

theorem cutOff_respond (r : Response) (s : State) : Ends (CutOff c s) (respond r s) :=
  ends_of_ran (.of_eq (t := s.offer r) rfl rfl rfl rfl rfl) (cutOff_deliver _)

theorem cutOff_awaitAnswer {k : Answer → State → Result} (hk : ∀ a u, Ends (CutOff c u) (k a u)) (s : State) :
    Ends (CutOff c s) (awaitAnswer k s) := by
  refine cutOff_guardReset fun hd => ?_
  rcases hq : s.xreq with _ | q
  · simp only [exchange, hq]
    exact ends_next (cutOff_self s)
  · rcases hx : s.live with _ | ⟨x, later⟩
    · simp only [exchange, hq, hx]
      exact ends_next (cutOff_self s)
    · simp only [exchange, hq, hx]
      refine ends_of_ran (.takeAnswer hd hx q) (cutOff_guardReset fun hd' => ?_)
      exact ends_of_ran (.closeFrame hd' rfl) (hk _ _)

theorem cutOff_sendFrame {k : Answer → State → Result} (hk : ∀ a u, Ends (CutOff c u) (k a u)) (kind : Kind)
    (tx : List Byte) (ret : Ret) (s : State) : Ends (CutOff c s) (sendFrame kind tx ret k s) :=
  cutOff_guardReset fun hd => ends_of_ran (.openFrame hd kind tx ret) (cutOff_awaitAnswer hk _)

theorem cutOff_resumeAt (ret : Ret) (a : Answer) (s : State) : Ends (CutOff c s) (resumeAt ret a s) := by
  induction ret using Ret.next_induction generalizing a s with
  | step ret ih =>
      generalize ho : resumeAt ret a s = o
      cases ho ▸ resumeAt_resumes ret a s with
      | responds r => exact cutOff_respond r s
      | draws r => exact ends_of_ran (.of_eq (t := s.drawn) rfl rfl rfl rfl rfl) (cutOff_respond r _)
      | faults f => exact ends_fault f
      | sends addr value hn => exact cutOff_sendFrame (fun b u => ih _ hn b u) _ _ _ s
      | latches => exact ends_of_ran (.of_eq (t := s.latch _ _ _) rfl rfl rfl rfl rfl) (cutOff_respond .done _)
      | returns => exact ends_next (.inr ⟨[], by simp [State.frameDone], by simp⟩)

theorem cutOff_exec (i : Instr) (s : State) : Ends (CutOff c s) (exec i s) := by
  rcases exec_cases i s with ⟨r, h⟩ | ⟨h, -⟩ <;> rw [h]
  · exact cutOff_respond r s
  · exact cutOff_sendFrame (fun a u => cutOff_resumeAt _ a u) _ _ _ s

/-- Before a command is accepted from consistent channels, the line is free. -/
theorem cutOff_step (s : State) : Ends (CutOff (s.channelsOk = true) s) (step s) := by
  cases hd : s.resetDue with
  | true => exact step_due hd ▸ ends_next (.inl ⟨s, [], .refl s, hd, rfl⟩)
  | false =>
      cases hp : s.phase with
      | idle =>
          cases hc : s.cmdIn with
          | nil => exact step_idle hd hp hc ▸ ends_next (cutOff_self s)
          | cons w later =>
              have ha : s.Ran (s.channelsOk = true) [.cmd w] (s.accept w later) :=
                .accept hd (fun h => ((channelsOk_idle_iff hp).mp h).request) w later
              cases hw : decodeWord s.params w with
              | ok i =>
                  have hb := ha.trans (.of_eq (t := (s.accept w later).begin i) rfl rfl rfl rfl rfl)
                  exact step_command hd hp hc hw ▸ ends_of_ran hb (cutOff_exec i _)
              | error e => exact step_illegal hd hp hc hw ▸ ends_of_ran ha (cutOff_respond _ _)
      | busy pos =>
          cases pos with
          | start i => exact step_start hd hp ▸ cutOff_exec i s
          | send =>
              cases hf : decodeFrame s.txBuf with
              | ok i => exact step_send hd hp hf ▸ cutOff_exec i s
              | error e =>
                  rw [step_send_error hd hp hf]
                  split <;> exact fun _ h => nomatch h
          | await ret => exact step_await hd hp ▸ cutOff_awaitAnswer (fun a u => cutOff_resumeAt ret a u) s
          | respond => exact step_respond hd hp ▸ cutOff_deliver s

/-- A trace that ends in RESET is that of a run that RESET cut off. -/
theorem CutOff.ran {s t : State} {new : List Event} (h : CutOff c s t) (ht : t.trace = s.trace ++ new ++ [.reset]) :
    ∃ u, s.Ran c new u ∧ u.resetDue = true ∧ t = u.applyReset := by
  rcases h with ⟨u, new', hu, hd, rfl⟩ | ⟨new', htrace, hn⟩
  · obtain rfl : new = new' := by simpa [hu.trace] using ht.symm
    exact ⟨u, hu, hd, rfl⟩
  · obtain rfl : new' = new ++ [.reset] := by simpa [htrace] using ht
    exact absurd (by simp) hn

/-- A due RESET is the first scheduled one. -/
theorem resetIn_of_due {s : State} (h : s.resetDue = true) :
    ∃ r, s.resetIn = r :: s.resetIn.tail ∧ r.after = 0 := by
  unfold State.resetDue at h
  cases hl : s.resetIn with
  | nil => simp [hl] at h
  | cons r later => exact ⟨r, rfl, by simpa [hl] using h⟩

/-- The answer to a transfer that RESET cuts short is one that does not count. -/
theorem applyReset_live (s : State) (ys : List Xrsp) : (s.applyReset.answeredBy ys).live =
    (s.answeredBy ys).live.drop (if s.leavesLate then 1 else 0) := by
  simp only [State.live, State.answeredBy_xrspIn, State.answeredBy_stale, State.applyReset_xrspIn,
    State.applyReset_stale, List.drop_drop]
  split <;> rfl

theorem State.Ran.schedule {s u : State} {new : List Event} (h : s.Ran (s.channelsOk = true) new u)
    (hd : u.resetDue = true) : ∃ r later, s.resetIn = r :: later ∧ u.applyReset.resetIn = later ∧
      r.after = new.length ∧ (s.channelsOk = true → ∀ ys, (u.applyReset.answeredBy ys).live =
        (s.answeredBy ys).live.drop
          (new.countP Event.isXfer + if s.openAfter new = true ∧ r.late = true then 1 else 0)) := by
  obtain ⟨r, hr, h0⟩ := resetIn_of_due hd
  refine ⟨{ r with after := r.after + new.length }, u.resetIn.tail, by rw [h.resetIn, hr]; rfl, rfl, by simp [h0],
    fun hc ys => ?_⟩
  have hlate : u.leavesLate = (s.openAfter new && r.late) := by
    rw [← h.request hc, State.leavesLate, hr]
    cases u.xreq <;> simp
  rw [applyReset_live, h.live, List.drop_drop, hlate]
  simp only [Bool.and_eq_true]

/-- Settles O23: no rule makes a RESET event but by RESET, and RESET comes before the event at which it is due. -/
theorem resetAbortsCommand : Obligations.ResetAbortsCommand := by
  unfold Obligations.ResetAbortsCommand
  refine ⟨fun i s t new ht htr => ?_, fun s t new ht htr => ?_⟩
  · obtain ⟨u, hu, -, rfl⟩ := (cutOff_exec (c := True) i s t ht).ran htr
    exact ⟨applyReset_registersReset u, hu.noRsp⟩
  · obtain ⟨u, hu, hd, rfl⟩ := (cutOff_step s t ht).ran htr
    exact ⟨applyReset_registersReset u, hu.noRsp, hu.schedule hd⟩

end Sys2Proof.Machine

namespace Sys2Proof.Machine

/-! ## SEXT20 (42_decode.md R81, R82) -/

/-- The 20-bit sample field (30_encoding.md R57). -/
def sampleField (b0 b1 : Byte) (nibble : BitVec 4) : BitVec 20 := b0 ++ b1 ++ nibble

section
variable (f : BitVec 20)

theorem sampleWord_getLsbD (i : Nat) : (f ++ 0#12 : Word).getLsbD i = (decide (12 ≤ i) && f.getLsbD (i - 12)) := by
  refine BitVec.getLsbD_append.trans ?_
  rcases Nat.lt_or_ge i 12 with h | h
  · simp [h, h.not_ge]
  · simp [h, h.not_gt]

theorem sampleWord_msb : (f ++ 0#12 : Word).msb = f.msb := by
  rw [BitVec.msb_eq_getLsbD_last, sampleWord_getLsbD, BitVec.msb_eq_getLsbD_last]
  rfl

/-- The arithmetic shift by 12 of the word that has the field on top is the field's sign extension. -/
theorem sampleWord_sshiftRight : (f ++ 0#12 : Word).sshiftRight 12 = f.signExtend 32 := by
  refine BitVec.eq_of_getLsbD_eq fun i hi => ?_
  rw [BitVec.getLsbD_sshiftRight, BitVec.getLsbD_signExtend, sampleWord_getLsbD, sampleWord_msb]
  rcases Nat.lt_or_ge i 20 with h | h
  · have : 12 + i < 32 := by omega
    simp [h, hi, this]
  · have : ¬ 12 + i < 32 := by omega
    simp [h.not_gt, hi, this]

theorem signExtend_shiftLeft : f.signExtend 32 <<< 12 = (f ++ 0#12 : Word) := by
  refine BitVec.eq_of_getLsbD_eq fun i hi => ?_
  rw [BitVec.getLsbD_shiftLeft, BitVec.getLsbD_signExtend, sampleWord_getLsbD]
  have h20 : i - 12 < 20 := by omega
  have h32 : i - 12 < 32 := by omega
  simp [hi, h20, h32, ← decide_not]

/-- R82: a shift by 8 gives 16 times as much. -/
theorem sampleWord_sshiftRight_eight : (f ++ 0#12 : Word).sshiftRight 8 = f.signExtend 32 <<< 4 := by
  refine BitVec.eq_of_getLsbD_eq fun i hi => ?_
  rw [BitVec.getLsbD_sshiftRight, BitVec.getLsbD_shiftLeft, BitVec.getLsbD_signExtend, sampleWord_getLsbD,
    sampleWord_msb]
  have h32 : i - 4 < 32 := by omega
  have hsub : 8 + i - 12 = i - 4 := by omega
  rcases Nat.lt_or_ge i 24 with h | h
  · have h8 : 8 + i < 32 := by omega
    have h20 : i - 4 < 20 := by omega
    have h4 : 12 ≤ 8 + i ↔ 4 ≤ i := by omega
    simp [hi, h32, h20, h8, hsub, h4, ← decide_not]
  · have h8 : ¬ 8 + i < 32 := by omega
    have h20 : ¬ i - 4 < 20 := by omega
    have h4 : ¬ i < 4 := by omega
    simp [hi, h32, h20, h8, h4]

theorem sampleWord_ushiftRight_toNat : ((f ++ 0#12 : Word) >>> 12).toNat = f.toNat := by
  rw [BitVec.toNat_ushiftRight, BitVec.toNat_append, ← Nat.shiftLeft_add_eq_or_of_lt (0#12).isLt]
  simp [Nat.shiftLeft_eq, Nat.shiftRight_eq_div_pow]

end

section
variable (b0 b1 b2 : Byte)

theorem and_highNibbleMask (b : Byte) : b &&& 0xF0 = b.extractLsb' 4 4 ++ 0#4 := by
  calc b &&& 0xF0 = (b.extractLsb' 4 4 ++ b.extractLsb' 0 4) &&& (BitVec.allOnes 4 ++ 0#4) := by
        rw [BitVec.extractLsb'_append_extractLsb']; rfl
    _ = b.extractLsb' 4 4 ++ 0#4 := by rw [BitVec.and_append, BitVec.and_allOnes, BitVec.and_zero]

theorem sampleField_toNat (nibble : BitVec 4) :
    (sampleField b0 b1 nibble).toNat = b0.toNat * 4096 + b1.toNat * 16 + nibble.toNat := by
  rw [sampleField, BitVec.toNat_append, BitVec.toNat_append, ← Nat.shiftLeft_add_eq_or_of_lt b1.isLt,
    ← Nat.shiftLeft_add_eq_or_of_lt nibble.isLt]
  simp only [Nat.shiftLeft_eq]
  omega

/-- The three bytes in a word, as the shifts of R81 put them together. -/
theorem sampleWord_eq (nibble : BitVec 4) :
    zext32 b0 <<< 24 ||| zext32 b1 <<< 16 ||| zext32 (nibble ++ 0#4) <<< 8 = sampleField b0 b1 nibble ++ 0#12 := by
  have h0 : (zext32 b0 <<< 24).toNat = b0.toNat <<< 24 := by
    simp only [BitVec.toNat_shiftLeft, BitVec.toNat_setWidth, Nat.shiftLeft_eq]
    omega
  have h1 : (zext32 b1 <<< 16).toNat = b1.toNat <<< 16 := by
    simp only [BitVec.toNat_shiftLeft, BitVec.toNat_setWidth, Nat.shiftLeft_eq]
    omega
  have h2 : (zext32 (nibble ++ 0#4) <<< 8).toNat = nibble.toNat <<< 12 := by
    simp only [BitVec.toNat_shiftLeft, BitVec.toNat_setWidth, BitVec.toNat_append, Nat.shiftLeft_eq, BitVec.toNat_zero,
      Nat.or_zero]
    omega
  have hhigh : b0.toNat <<< 24 + b1.toNat <<< 16 = (b0.toNat <<< 8 + b1.toNat) <<< 16 := by
    simp only [Nat.shiftLeft_eq]
    omega
  have hfield : (sampleField b0 b1 nibble ++ 0#12 : Word).toNat = (sampleField b0 b1 nibble).toNat <<< 12 := by
    rw [BitVec.toNat_append, BitVec.toNat_zero, Nat.or_zero]
  refine BitVec.eq_of_toNat_eq ?_
  rw [BitVec.toNat_or, BitVec.toNat_or, h0, h1, h2, hfield, sampleField_toNat,
    ← Nat.shiftLeft_add_eq_or_of_lt (by rw [Nat.shiftLeft_eq]; omega), hhigh,
    ← Nat.shiftLeft_add_eq_or_of_lt (by rw [Nat.shiftLeft_eq]; omega)]
  simp only [Nat.shiftLeft_eq]
  omega

theorem sext20_eq_signExtend : sext20 b0 b1 b2 = (sampleField b0 b1 (b2.extractLsb' 4 4)).signExtend 32 := by
  rw [sext20, and_highNibbleMask, sampleWord_eq, sampleWord_sshiftRight]

theorem sext20_toInt : (sext20 b0 b1 b2).toInt = (sampleField b0 b1 (b2.extractLsb' 4 4)).toInt := by
  rw [sext20_eq_signExtend, BitVec.toInt_signExtend_of_le (by decide)]

theorem highNibble_toNat : (b2.extractLsb' 4 4).toNat = b2.toNat / 16 := by
  rw [BitVec.extractLsb'_toNat, Nat.shiftRight_eq_div_pow]
  omega

end

/-- Every field is three bytes in one way. -/
theorem sampleField_injective {b0 b1 c0 c1 : Byte} {m n : BitVec 4} (h : sampleField b0 b1 m = sampleField c0 c1 n) :
    b0 = c0 ∧ b1 = c1 ∧ m = n := by
  have h := congrArg BitVec.toNat h
  rw [sampleField_toNat, sampleField_toNat] at h
  exact ⟨BitVec.eq_of_toNat_eq (by omega), BitVec.eq_of_toNat_eq (by omega), BitVec.eq_of_toNat_eq (by omega)⟩

theorem sampleField_extract (f : BitVec 20) :
    sampleField (f.extractLsb' 12 8) (f.extractLsb' 4 8) (f.extractLsb' 0 4) = f := by
  refine BitVec.eq_of_toNat_eq ?_
  simp only [sampleField_toNat, BitVec.extractLsb'_toNat, Nat.shiftRight_eq_div_pow]
  omega

/-- R82: every value of the range comes from exactly one field. -/
theorem existsUnique_sample {n : Int} (hmin : -524288 ≤ n) (hmax : n ≤ 524287) :
    ∃! f : Byte × Byte × BitVec 4, (sext20 f.1 f.2.1 (f.2.2 ++ 0#4)).toInt = n := by
  have hnibble (m : BitVec 4) : (m ++ 0#4 : Byte).extractLsb' 4 4 = m := BitVec.extractLsb'_append_eq_left
  have hn : (BitVec.ofInt 20 n).toInt = n := BitVec.toInt_ofInt_eq_self (by decide) (by simpa) (by simp; omega)
  simp only [sext20_toInt, hnibble]
  refine ⟨⟨_, _, _⟩, (congrArg BitVec.toInt (sampleField_extract (.ofInt 20 n))).trans hn, ?_⟩
  rintro ⟨c0, c1, m⟩ hf
  have hfield : sampleField c0 c1 m = BitVec.ofInt 20 n := BitVec.eq_of_toInt_eq (hf.trans hn.symm)
  obtain ⟨rfl, rfl, rfl⟩ := sampleField_injective (hfield.trans (sampleField_extract _).symm)
  rfl

/-- Settles O10: SEXT20 is the sign extension of the field, from which everything else is read off. -/
theorem sext20IsSignExtension : Obligations.Sext20IsSignExtension := by
  unfold Obligations.Sext20IsSignExtension
  refine ⟨fun b0 b1 b2 => ?_, fun n => existsUnique_sample, by decide, by decide, by decide, by decide, by decide⟩
  intro u w
  have hw : w = sampleField b0 b1 (b2.extractLsb' 4 4) ++ 0#12 := BitVec.append_assoc.symm
  have hu : (sampleField b0 b1 (b2.extractLsb' 4 4)).toNat = u := by rw [sampleField_toNat, highNibble_toNat]
  have hs := sext20_eq_signExtend b0 b1 b2
  have hv := sext20_toInt b0 b1 b2
  have hmin := (sampleField b0 b1 (b2.extractLsb' 4 4)).le_toInt
  have hmax := (sampleField b0 b1 (b2.extractLsb' 4 4)).toInt_lt
  refine ⟨?_, hs, ?_, ?_, ?_, fun junk => ?_, ?_, ?_, ?_⟩
  · rw [hs, hw, sampleWord_sshiftRight]
  · rw [hv, BitVec.toInt_eq_toNat_cond, hu]
    split_ifs <;> omega
  · omega
  · omega
  · rw [sext20_eq_signExtend, hs, BitVec.extractLsb'_append_eq_left]
  · rw [hs, hw, signExtend_shiftLeft]
  · rw [hs, hw, sampleWord_sshiftRight_eight]
  · rw [hw, sampleWord_ushiftRight_toNat, hu]

end Sys2Proof.Machine

namespace Sys2Proof.Machine

/-! ## Binary32 (42_decode.md R84) -/

/-! ### The magnitude of a pattern -/

/-- The magnitude of the pattern with the magnitude bits `b`, in units of `2 ^ -150`. -/
def f32Mag (b : Nat) : Nat :=
  (if b / 2 ^ 23 = 0 then b % 2 ^ 23 else 2 ^ 23 + b % 2 ^ 23) * 2 ^ max 1 (b / 2 ^ 23)

theorem lt_of_finite {b : Nat} (h : b < f32InfBits) : b < 2 ^ 31 := h.trans (by decide)

/-- The sign of a pattern is no part of its significand and exponent. -/
theorem f32Sig_pack (neg : Bool) {b : Nat} (hb : b < 2 ^ 31) :
    f32Sig (f32Pack neg b) * 2 ^ f32Scale (f32Pack neg b) = f32Mag b := by
  obtain ⟨-, hexp, hfrac⟩ := f32_fields neg b hb
  rw [f32Sig, f32Scale, hexp, hfrac, f32Mag]

theorem f32Value_f32Pack (neg : Bool) {b : Nat} (hb : b < 2 ^ 31) :
    f32Value (f32Pack neg b) = (if neg then -1 else 1) * ((f32Mag b : Nat) : ℚ) / 2 ^ 150 := by
  rw [f32Value, f32Sig_pack neg hb, (f32_fields neg b hb).1]

/-- Every magnitude is a significand below `2 ^ 24`, at least `2 ^ 23` above the subnormals, at an exponent. -/
theorem exists_pack (b : Nat) : ∃ e n, 1 ≤ e ∧ n < 2 ^ 24 ∧ (e = 1 ∨ 2 ^ 23 ≤ n) ∧ b = (e - 1) * 2 ^ 23 + n ∧
    f32Mag b = n * 2 ^ e := by
  by_cases h : b / 2 ^ 23 = 0
  · refine ⟨1, b % 2 ^ 23, le_rfl, by omega, .inl rfl, by omega, ?_⟩
    rw [f32Mag, if_pos h, h]
    rfl
  · refine ⟨b / 2 ^ 23, 2 ^ 23 + b % 2 ^ 23, by omega, by omega, .inr (by omega), ?_, ?_⟩
    · have := Nat.div_add_mod b (2 ^ 23)
      obtain ⟨k, hk⟩ : ∃ k, b / 2 ^ 23 = k + 1 := ⟨b / 2 ^ 23 - 1, by omega⟩
      rw [hk] at this ⊢
      simp only [Nat.add_sub_cancel]
      omega
    · rw [f32Mag, if_neg h, max_eq_right (by omega)]

/-- A larger significand, or a larger exponent, is a larger magnitude. -/
theorem mag_le_mag {e f m n : Nat} (hm : m < 2 ^ 24) (hn : f = 1 ∨ 2 ^ 23 ≤ n) (h1 : 1 ≤ e) (hef : e ≤ f)
    (hs : e = f → m ≤ n) : m * 2 ^ e ≤ n * 2 ^ f := by
  rcases hef.eq_or_lt with rfl | hlt
  · exact Nat.mul_le_mul_right _ (hs rfl)
  · have hn : 2 ^ 23 ≤ n := hn.resolve_left (by omega)
    calc m * 2 ^ e ≤ 2 ^ 24 * 2 ^ e := Nat.mul_le_mul_right _ hm.le
      _ = 2 ^ 23 * 2 ^ (e + 1) := by ring
      _ ≤ n * 2 ^ f := Nat.mul_le_mul hn (Nat.pow_le_pow_right (by decide) hlt)

theorem f32Mag_mono {b c : Nat} (h : b ≤ c) : f32Mag b ≤ f32Mag c := by
  obtain ⟨e, m, he, hm, hm', rfl, hb⟩ := exists_pack b
  obtain ⟨f, n, hf, hn, hn', rfl, hc⟩ := exists_pack c
  rw [hb, hc]
  obtain ⟨k, rfl⟩ : ∃ k, e = k + 1 := ⟨e - 1, by omega⟩
  obtain ⟨l, rfl⟩ : ∃ l, f = l + 1 := ⟨f - 1, by omega⟩
  simp only [Nat.add_sub_cancel] at h
  exact mag_le_mag hm hn' he (by omega) fun _ => by omega

/-! ### The magnitude of a rounding -/

/-- The magnitude of `num / den` rounded once, in units of `2 ^ -150`. -/
def roundMag (num den : Nat) : Nat :=
  nearestEven (num * 2 ^ 150) (den * 2 ^ roundExp num den) * 2 ^ roundExp num den

theorem roundBits_of_finite {num den : Nat} (hf : roundBits num den < f32InfBits) :
    roundBits num den =
      (roundExp num den - 1) * 2 ^ 23 + nearestEven (num * 2 ^ 150) (den * 2 ^ roundExp num den) := by
  simp only [roundBits] at *
  omega

theorem f32Mag_roundBits {num den : Nat} (hd : 0 < den) (hf : roundBits num den < f32InfBits) :
    f32Mag (roundBits num den) = roundMag num den := by
  have h := f32Value_roundF32 false num den hd hf
  rw [roundF32, f32Value_f32Pack false (lt_of_finite hf)] at h
  simp only [Bool.false_eq_true, if_false, one_mul] at h
  exact Nat.cast_injective ((div_left_inj' (by positivity)).mp h)

/-- Rounding sees the ratio alone. -/
theorem roundBits_congr {a b c d : Nat} (hb : 0 < b) (hd : 0 < d) (h : a * d = c * b) :
    roundBits a b = roundBits c d := (roundBits_mono hb hd h.le).antisymm (roundBits_mono hd hb h.ge)

theorem nearestEven_mul_of_dvd {a b : Nat} (hb : 0 < b) (h : b ∣ a) : nearestEven a b * b = a := by
  obtain ⟨k, rfl⟩ := h
  simp only [nearestEven, Nat.mul_div_cancel_left k hb, Nat.mul_mod_right]
  rw [if_neg (by omega), Nat.mul_comm]

/-- What a pattern can hold is rounded to itself. -/
theorem roundMag_of_representable {num den m e : Nat} (hd : 0 < den) (h1 : 1 ≤ e) (hm : m ≤ 2 ^ 24)
    (h : num * 2 ^ 150 = den * (m * 2 ^ e)) : roundMag num den = m * 2 ^ e := by
  have hpos : 0 < den * 2 ^ roundExp num den := Nat.mul_pos hd (Nat.two_pow_pos _)
  have hdvd : 2 ^ roundExp num den ∣ m * 2 ^ e := by
    obtain ⟨-, hlow⟩ := roundExp_bounds num den hd
    generalize roundExp num den = f at *
    rcases Nat.lt_or_ge e f with hlt | hge
    · have hle := hlow.resolve_left (by omega)
      rw [h, mul_assoc] at hle
      have hle : 2 ^ f * 2 ^ 23 ≤ m * 2 ^ e := Nat.le_of_mul_le_mul_left hle hd
      obtain ⟨k, rfl⟩ : ∃ k, f = e + 1 + k := ⟨f - (e + 1), by omega⟩
      have hscaled : 2 ^ e * (2 ^ 24 * 2 ^ k) ≤ 2 ^ e * m := by
        calc 2 ^ e * (2 ^ 24 * 2 ^ k) = 2 ^ (e + 1 + k) * 2 ^ 23 := by ring
          _ ≤ m * 2 ^ e := hle
          _ = 2 ^ e * m := Nat.mul_comm ..
      have hle : 2 ^ 24 * 2 ^ k ≤ m := Nat.le_of_mul_le_mul_left hscaled (Nat.two_pow_pos e)
      have hk : 1 ≤ 2 ^ k := Nat.one_le_two_pow
      obtain ⟨rfl, hk⟩ : m = 2 ^ 24 ∧ 2 ^ k = 1 := by omega
      exact ⟨2 ^ 23, by rw [pow_add, hk]; ring⟩
    · exact Dvd.dvd.mul_left (Nat.pow_dvd_pow 2 hge) m
  have hexact : nearestEven (num * 2 ^ 150) (den * 2 ^ roundExp num den) * (den * 2 ^ roundExp num den) =
      num * 2 ^ 150 := nearestEven_mul_of_dvd hpos (h ▸ Nat.mul_dvd_mul_left den hdvd)
  refine Nat.eq_of_mul_eq_mul_left hd ?_
  rw [← h, ← hexact, roundMag]
  ring

/-! ### Conversion -/

theorem roundBits_lt_of_le {num : Nat} (h : num ≤ 2 ^ 24) : roundBits num 1 < f32InfBits :=
  (roundBits_mono Nat.one_pos Nat.one_pos (Nat.mul_le_mul_right 1 h)).trans_lt (by decide)

theorem f32Mag_of_le {num : Nat} (h : num ≤ 2 ^ 24) : f32Mag (roundBits num 1) = num * 2 ^ 150 :=
  (f32Mag_roundBits Nat.one_pos (roundBits_lt_of_le h)).trans
    (roundMag_of_representable (e := 150) Nat.one_pos (by decide) h (by rw [Nat.one_mul]))

theorem toInt_eq_sign_mul (i : Word) : (i.toInt : ℚ) = (if i.msb then -1 else 1) * (i.toInt.natAbs : ℚ) := by
  rw [Nat.cast_natAbs, Int.cast_abs]
  cases hm : i.msb
  · have h : (0 : ℚ) ≤ i.toInt := by exact_mod_cast BitVec.toInt_nonneg_of_msb_false hm
    simp [abs_of_nonneg h]
  · have h : (i.toInt : ℚ) < 0 := by exact_mod_cast BitVec.toInt_neg_of_msb_true hm
    simp [abs_of_neg h]

/-- Settles O13: an integer up to 2^24 is a significand at the exponent 150, which rounds to itself. -/
theorem conversionIsExact : Obligations.ConversionIsExact := by
  unfold Obligations.ConversionIsExact
  intro i hi
  rw [f32OfI32, roundF32, f32Value_f32Pack _ (lt_of_finite (roundBits_lt_of_le hi)), f32Mag_of_le hi,
    toInt_eq_sign_mul]
  push_cast
  ring

/-! ### The nearest pattern (92_eei_decisions.md D16) -/

theorem nearestEven_dist {a b : Nat} (hb : 0 < b) : |(a : ℚ) - b * nearestEven a b| ≤ b / 2 := by
  obtain ⟨h1, h2⟩ := nearestEven_bounds a b hb
  have q1 : 2 * (a : ℚ) ≤ 2 * (b * nearestEven a b) + b := by exact_mod_cast h1
  have q2 : 2 * ((b : ℚ) * nearestEven a b) ≤ 2 * a + b := by exact_mod_cast h2
  rw [abs_le]
  constructor <;> linarith

/-- Another multiple of the divisor is at least half of it away. -/
theorem half_le_dist {a b k : Nat} (hb : 0 < b) (hk : k ≠ nearestEven a b) : (b : ℚ) / 2 ≤ |(a : ℚ) - b * k| := by
  have hn := nearestEven_dist (a := a) hb
  have hgap : (1 : ℚ) ≤ |(nearestEven a b : ℚ) - k| := by
    have : (1 : ℤ) ≤ |(nearestEven a b : ℤ) - k| := Int.one_le_abs (by omega)
    exact_mod_cast this
  have hbq : (0 : ℚ) < b := by exact_mod_cast hb
  have htri : (b : ℚ) * |(nearestEven a b : ℚ) - k| ≤ |(a : ℚ) - b * nearestEven a b| + |(a : ℚ) - b * k| := by
    calc (b : ℚ) * |(nearestEven a b : ℚ) - k| = |((a : ℚ) - b * k) - (a - b * nearestEven a b)| := by
          rw [← abs_of_pos hbq, ← abs_mul, abs_of_pos hbq]
          congr 1
          ring
      _ ≤ |(a : ℚ) - b * k| + |(a : ℚ) - b * nearestEven a b| := abs_sub _ _
      _ = _ := add_comm _ _
  nlinarith

theorem nearestEven_nearest {a b : Nat} (hb : 0 < b) (k : Nat) :
    |(a : ℚ) - b * nearestEven a b| ≤ |(a : ℚ) - b * k| := by
  by_cases hk : k = nearestEven a b
  · rw [hk]
  · exact (nearestEven_dist hb).trans (half_le_dist hb hk)

/-- Two multiples of the divisor are equally near only at a tie. -/
theorem nearestEven_even_of_tie {a b k : Nat} (hb : 0 < b) (hk : k ≠ nearestEven a b)
    (h : |(a : ℚ) - b * nearestEven a b| = |(a : ℚ) - b * k|) : nearestEven a b % 2 = 0 := by
  have hhalf : |(a : ℚ) - b * nearestEven a b| = b / 2 := (nearestEven_dist hb).antisymm (h ▸ half_le_dist hb hk)
  refine nearestEven_tie a b hb ?_
  rcases abs_eq_abs.mp (hhalf.trans (abs_of_nonneg (by positivity)).symm) with h | h
  · left
    have : 2 * (a : ℚ) = 2 * (b * nearestEven a b) + b := by linarith
    exact_mod_cast this
  · right
    have : 2 * ((b : ℚ) * nearestEven a b) = 2 * a + b := by linarith
    exact_mod_cast this

/-- Patterns of one magnitude are one pattern. -/
theorem pack_injective {e f m n : Nat} (he : 1 ≤ e) (hf : 1 ≤ f) (hm : m ≤ 2 ^ 24) (hm' : e = 1 ∨ 2 ^ 23 ≤ m)
    (hn : n < 2 ^ 24) (hn' : f = 1 ∨ 2 ^ 23 ≤ n) (h : m * 2 ^ e = n * 2 ^ f) :
    (e - 1) * 2 ^ 23 + m = (f - 1) * 2 ^ 23 + n := by
  rcases Nat.lt_trichotomy e f with hlt | rfl | hlt
  · obtain ⟨k, rfl⟩ : ∃ k, f = e + 1 + k := ⟨f - (e + 1), by omega⟩
    have hmn : m = n * 2 * 2 ^ k := Nat.eq_of_mul_eq_mul_right (Nat.two_pow_pos e) (by rw [h]; ring)
    have hn : 2 ^ 23 ≤ n := hn'.resolve_left (by omega)
    have hk : n * 2 * 1 ≤ n * 2 * 2 ^ k := Nat.mul_le_mul_left _ Nat.one_le_two_pow
    obtain rfl : k = 0 := by
      by_contra hne
      have : n * 2 * 2 ^ 1 ≤ n * 2 * 2 ^ k := Nat.mul_le_mul_left _ (Nat.pow_le_pow_right (by decide) (by omega))
      omega
    omega
  · rw [Nat.eq_of_mul_eq_mul_right (Nat.two_pow_pos e) h]
  · obtain ⟨k, rfl⟩ : ∃ k, e = f + 1 + k := ⟨e - (f + 1), by omega⟩
    have hmn : n = m * 2 * 2 ^ k := Nat.eq_of_mul_eq_mul_right (Nat.two_pow_pos f) (by rw [← h]; ring)
    have hm : 2 ^ 23 ≤ m := hm'.resolve_left (by omega)
    have hk : m * 2 * 1 ≤ m * 2 * 2 ^ k := Nat.mul_le_mul_left _ Nat.one_le_two_pow
    omega

/-- The distance from a ratio to a magnitude, as a distance of integers. -/
theorem dist_eq (num : Nat) {den : Nat} (hd : 0 < den) (mag : Nat) :
    |(num : ℚ) / den - mag / 2 ^ 150| = |((num * 2 ^ 150 : Nat) : ℚ) - den * mag| / (den * 2 ^ 150) := by
  have hdq : (0 : ℚ) < den := by exact_mod_cast hd
  have hpos : (0 : ℚ) < den * 2 ^ 150 := by positivity
  rw [eq_div_iff hpos.ne', ← abs_of_pos hpos, ← abs_mul]
  congr 1
  rw [Nat.cast_mul, Nat.cast_pow, Nat.cast_ofNat]
  field_simp

/-- A magnitude at a lower exponent than the rounding's is farther away. -/
theorem dist_lt_of_exp_lt {a den e f s : Nat} (hd : 0 < den) (hle : den * 2 ^ e * 2 ^ 23 ≤ a) (hs : s < 2 ^ 24)
    (hlt : f < e) :
    |(a : ℚ) - den * (nearestEven a (den * 2 ^ e) * 2 ^ e : Nat)| < |(a : ℚ) - den * (s * 2 ^ f : Nat)| := by
  have hnear := nearestEven_nearest (a := a) (Nat.mul_pos hd (Nat.two_pow_pos e)) (2 ^ 23)
  generalize nearestEven a (den * 2 ^ e) = n at *
  have hmag : s * 2 ^ f < 2 ^ 23 * 2 ^ e := by
    calc s * 2 ^ f < 2 ^ 24 * 2 ^ f := Nat.mul_lt_mul_of_pos_right hs (Nat.two_pow_pos f)
      _ = 2 ^ 23 * 2 ^ (f + 1) := by ring
      _ ≤ 2 ^ 23 * 2 ^ e := Nat.mul_le_mul_left _ (Nat.pow_le_pow_right (by decide) hlt)
  have hdmag : den * (s * 2 ^ f) < den * 2 ^ e * 2 ^ 23 := by
    calc den * (s * 2 ^ f) < den * (2 ^ 23 * 2 ^ e) := Nat.mul_lt_mul_of_pos_left hmag hd
      _ = den * 2 ^ e * 2 ^ 23 := by ring
  have q1 : (den : ℚ) * (s * 2 ^ f) < den * 2 ^ e * 2 ^ 23 := by exact_mod_cast hdmag
  have q2 : (den : ℚ) * 2 ^ e * 2 ^ 23 ≤ a := by exact_mod_cast hle
  push_cast at hnear ⊢
  rw [abs_of_nonneg (a := (a : ℚ) - den * 2 ^ e * 8388608) (by linarith)] at hnear
  rw [abs_of_pos (a := (a : ℚ) - den * (s * 2 ^ f)) (by linarith)]
  calc |(a : ℚ) - den * (n * 2 ^ e)| = |(a : ℚ) - den * 2 ^ e * n| := by congr 1; ring
    _ ≤ a - den * 2 ^ e * 8388608 := hnear
    _ < a - den * (s * 2 ^ f) := by linarith

/-- 92_eei_decisions.md D16: no finite pattern is nearer than the rounding, and another one is as near only if the
rounding is even. -/
theorem roundMag_nearest {num den b : Nat} (hd : 0 < den) (hf : roundBits num den < f32InfBits) :
    |((num * 2 ^ 150 : Nat) : ℚ) - den * roundMag num den| ≤ |((num * 2 ^ 150 : Nat) : ℚ) - den * f32Mag b| ∧
    (b ≠ roundBits num den →
      |((num * 2 ^ 150 : Nat) : ℚ) - den * roundMag num den| = |((num * 2 ^ 150 : Nat) : ℚ) - den * f32Mag b| →
      roundBits num den % 2 = 0) := by
  obtain ⟨f, s, h1, hs, hs', hb, hmag⟩ := exists_pack b
  have hround := roundBits_of_finite hf
  obtain ⟨hsig, hsig'⟩ := roundSig_bounds num den hd
  have hpos : 0 < den * 2 ^ roundExp num den := Nat.mul_pos hd (Nat.two_pow_pos _)
  rw [hmag]
  rcases Nat.lt_or_ge f (roundExp num den) with hlt | hge
  · have hle := (roundExp_bounds num den hd).2.resolve_left (by omega)
    have h := dist_lt_of_exp_lt hd hle hs hlt
    exact ⟨h.le, fun _ heq => absurd heq h.ne⟩
  · obtain ⟨j, hj⟩ : ∃ j, f = roundExp num den + j := ⟨f - roundExp num den, by omega⟩
    have hmul : (den : ℚ) * (s * 2 ^ f : Nat) = (den * 2 ^ roundExp num den : Nat) * (s * 2 ^ j : Nat) := by
      rw [hj]
      push_cast
      ring
    have hself : (den : ℚ) * roundMag num den = (den * 2 ^ roundExp num den : Nat) *
        nearestEven (num * 2 ^ 150) (den * 2 ^ roundExp num den) := by
      rw [roundMag]
      push_cast
      ring
    rw [hmul, hself]
    refine ⟨nearestEven_nearest hpos _, fun hne htie => ?_⟩
    have hk : s * 2 ^ j ≠ nearestEven (num * 2 ^ 150) (den * 2 ^ roundExp num den) := fun hk => hne <| by
      rw [hround, hb]
      refine (pack_injective (roundExp_pos num den) h1 hsig hsig' hs hs' ?_).symm
      rw [← hk, hj]
      ring
    have heven := nearestEven_even_of_tie hpos hk htie
    omega

theorem f32Value_ofNat {b : Nat} (hb : b < f32InfBits) : f32Value (BitVec.ofNat 32 b) = (f32Mag b : ℚ) / 2 ^ 150 := by
  have hpack : BitVec.ofNat 32 b = f32Pack false b := by
    refine BitVec.eq_of_toNat_eq ?_
    rw [f32Pack, BitVec.toNat_append]
    have := lt_of_finite hb
    simp
    omega
  rw [hpack, f32Value_f32Pack false (lt_of_finite hb)]
  simp

/-- Settles O14: the rounded significand is a nearest integer at the exponent at which it is rounded, patterns at
higher exponents are multiples of it, and those at lower exponents are farther away. -/
theorem roundingIsToNearestEven : Obligations.RoundingIsToNearestEven := by
  unfold Obligations.RoundingIsToNearestEven
  intro num den hd hf
  have hdq : (0 : ℚ) < den := by exact_mod_cast hd
  have hpos : (0 : ℚ) < den * 2 ^ 150 := by positivity
  refine ⟨?_, fun b hb => ?_⟩
  · rw [f32Value_ofNat hf, roundF32, f32Value_f32Pack false (lt_of_finite hf)]
    simp
  · rw [f32Value_ofNat hf, f32Value_ofNat hb, f32Mag_roundBits hd hf, dist_eq num hd, dist_eq num hd,
      div_le_div_iff_of_pos_right hpos, div_left_inj' hpos.ne']
    exact roundMag_nearest hd hf

end Sys2Proof.Machine

namespace Sys2Proof.Machine

/-! ## Division and multiplication (42_decode.md R84) -/

theorem abs_sign (neg : Bool) : |(if neg then -1 else 1 : ℚ)| = 1 := by cases neg <;> simp

theorem abs_f32Value (a : Word) : |f32Value a| = ((f32Sig a * 2 ^ f32Scale a : Nat) : ℚ) / 2 ^ 150 := by
  rw [f32Value, abs_div, abs_mul, abs_sign, one_mul, Nat.abs_cast, abs_of_pos (by positivity)]

theorem f32Sig_pos_of_ne_zero {a : Word} (h : f32IsZero a = false) : 0 < f32Sig a := by
  unfold f32Sig
  split
  next h0 =>
    refine Nat.pos_of_ne_zero fun hf => ?_
    simp [f32IsZero, h0, hf] at h
  · omega

theorem divRNE_finite {a b : Word} (ha : f32Exp a ≠ 255) (hb : f32Exp b ≠ 255) (h0 : f32IsZero b = false) :
    divRNE a b = roundF32 (a.msb != b.msb) (f32Sig a * 2 ^ f32Scale a) (f32Sig b * 2 ^ f32Scale b) := by
  simp [divRNE, f32IsNaN, f32IsInf, ha, hb, h0]

theorem mulRNE_finite {a b : Word} (ha : f32Exp a ≠ 255) (hb : f32Exp b ≠ 255) :
    mulRNE a b =
      roundF32 (a.msb != b.msb) (f32Sig a * 2 ^ f32Scale a * (f32Sig b * 2 ^ f32Scale b)) (2 ^ 150 * 2 ^ 150) := by
  simp only [mulRNE, f32IsNaN, f32IsInf, beq_false_of_ne ha, beq_false_of_ne hb, Bool.false_and, Bool.or_self,
    Bool.false_eq_true, if_false]

/-- Settles O15: the ratios are those of the operands' magnitudes. -/
theorem divAndMulRoundOnce : Obligations.DivAndMulRoundOnce := by
  unfold Obligations.DivAndMulRoundOnce
  intro a b ha hb
  refine ⟨fun h0 => ⟨_, _, Nat.mul_pos (f32Sig_pos_of_ne_zero h0) (Nat.two_pow_pos _), ?_, divRNE_finite ha hb h0⟩,
    _, _, by positivity, ?_, mulRNE_finite ha hb⟩
  · rw [abs_div, abs_f32Value, abs_f32Value, div_div_div_cancel_right₀ (by positivity)]
  · rw [abs_mul, abs_f32Value, abs_f32Value, div_mul_div_comm]
    simp only [Nat.cast_mul, Nat.cast_pow, Nat.cast_ofNat]

/-! ## The scaler (42_decode.md R85 to R87) -/

theorem f32Value_of_mag {a : Word} {n : Nat} (hs : a.msb = false) (hn : f32Sig a * 2 ^ f32Scale a = n) :
    f32Value a = (n : ℚ) / 2 ^ 150 := by
  rw [f32Value, hs, hn]
  simp

theorem f32Value_d32 : f32Value d32 = 524287 := by
  rw [f32Value_of_mag (n := 524287 * 2 ^ 150) (by decide) (by decide)]
  norm_num

/-- R85: the constants are one significand at three exponents. -/
theorem f32Value_fs32 : f32Value (fs32 0b01) = 8589935 / 2 ^ 22 ∧ f32Value (fs32 0b10) = 8589935 / 2 ^ 21 ∧
    f32Value (fs32 0b11) = 8589935 / 2 ^ 20 := by
  rw [f32Value_of_mag (a := fs32 0b01) (n := 8589935 * 2 ^ 128) (by decide) (by decide),
    f32Value_of_mag (a := fs32 0b10) (n := 8589935 * 2 ^ 129) (by decide) (by decide),
    f32Value_of_mag (a := fs32 0b11) (n := 8589935 * 2 ^ 130) (by decide) (by decide)]
  norm_num

/-- Settles O12: the patterns and roundings are evaluated, and the values are read off the significands. -/
theorem scaleConstants : Obligations.ScaleConstants := by
  unfold Obligations.ScaleConstants
  obtain ⟨h1, h2, h3⟩ := f32Value_fs32
  refine ⟨rfl, by decide, f32Value_d32, rfl, by decide, h1, rfl, by decide, h2, rfl, by decide, h3, ?_, ?_⟩
  · rw [h1, h2]; norm_num
  · rw [h1, h3]; norm_num

theorem code_cases {c : BitVec 2} (hc : c ≠ 0) : c = 1 ∨ c = 2 ∨ c = 3 := by
  bv_omega

/-- Settles O16: the ends are evaluated, code by code. -/
theorem scaleEndpoints : Obligations.ScaleEndpoints := by
  unfold Obligations.ScaleEndpoints
  refine ⟨fun c hc => ?_, by decide, by decide, by decide, by decide⟩
  rcases code_cases hc with rfl | rfl | rfl <;> decide

/-- The magnitude of a full-scale constant, in units of `2 ^ -150`. -/
def fsMag (c : BitVec 2) : Nat := f32Sig (fs32 c) * 2 ^ f32Scale (fs32 c)

theorem fs32_finite {c : BitVec 2} (hc : c ≠ 0) : f32Exp (fs32 c) ≠ 255 ∧ (fs32 c).msb = false := by
  rcases code_cases hc with rfl | rfl | rfl <;> decide

/-- The magnitude bits of the quotient for a sample of magnitude `m`. -/
def quotBits (m : Nat) : Nat := roundBits m 524287

/-- The magnitude bits of SCALE for a sample of magnitude `m`. -/
def scaleBits (m : Nat) (c : BitVec 2) : Nat := roundBits (f32Mag (quotBits m) * fsMag c) (2 ^ 150 * 2 ^ 150)

theorem quotBits_mono {m n : Nat} (h : m ≤ n) : quotBits m ≤ quotBits n :=
  roundBits_mono (by decide) (by decide) (Nat.mul_le_mul_right _ h)

theorem scaleBits_mono {m n : Nat} (h : m ≤ n) (c : BitVec 2) : scaleBits m c ≤ scaleBits n c :=
  roundBits_mono (by positivity) (by positivity)
    (Nat.mul_le_mul_right _ (Nat.mul_le_mul_right _ (f32Mag_mono (quotBits_mono h))))

theorem quotBits_finite {m : Nat} (hm : m ≤ 524288) : quotBits m < f32InfBits :=
  (quotBits_mono hm).trans_lt (by decide)

theorem scaleBits_finite {m : Nat} (hm : m ≤ 524288) {c : BitVec 2} (hc : c ≠ 0) : scaleBits m c < f32InfBits := by
  refine (scaleBits_mono hm c).trans_lt ?_
  rcases code_cases hc with rfl | rfl | rfl <;> decide

theorem f32Exp_of_finite (neg : Bool) {b : Nat} (hb : b < f32InfBits) : f32Exp (f32Pack neg b) ≠ 255 := by
  rw [(f32_fields neg b (lt_of_finite hb)).2.1]
  unfold f32InfBits at hb
  omega

theorem div_d32 {raw : Word} (hm : raw.toInt.natAbs ≤ 524288) :
    divRNE (f32OfI32 raw) d32 = f32Pack raw.msb (quotBits raw.toInt.natAbs) := by
  have hm : raw.toInt.natAbs ≤ 2 ^ 24 := hm.trans (by decide)
  have hf := roundBits_lt_of_le hm
  have hd32 : f32Sig d32 * 2 ^ f32Scale d32 = 524287 * 2 ^ 150 := by decide
  rw [f32OfI32, roundF32, divRNE_finite (f32Exp_of_finite _ hf) (by decide) (by decide),
    f32Sig_pack _ (lt_of_finite hf), f32Mag_of_le hm, hd32, (f32_fields _ _ (lt_of_finite hf)).1, roundF32, quotBits,
    show d32.msb = false by decide, Bool.bne_false]
  exact congrArg _ (roundBits_congr (by positivity) (by decide) (by ring))

/-- SCALE by its sign and its magnitude. -/
theorem scale_eq {raw : Word} (hm : raw.toInt.natAbs ≤ 524288) {c : BitVec 2} (hc : c ≠ 0) :
    scale raw c = f32Pack raw.msb (scaleBits raw.toInt.natAbs c) := by
  have hf := quotBits_finite hm
  obtain ⟨hexp, hmsb⟩ := fs32_finite hc
  rw [scale, div_d32 hm, mulRNE_finite (f32Exp_of_finite _ hf) hexp, f32Sig_pack _ (lt_of_finite hf),
    (f32_fields _ _ (lt_of_finite hf)).1, hmsb, Bool.bne_false, roundF32]
  rfl

theorem f32Value_scale {raw : Word} (hm : raw.toInt.natAbs ≤ 524288) {c : BitVec 2} (hc : c ≠ 0) :
    f32Value (scale raw c) =
      (if raw.msb then -1 else 1) * (f32Mag (scaleBits raw.toInt.natAbs c) : ℚ) / 2 ^ 150 := by
  rw [scale_eq hm hc, f32Value_f32Pack _ (lt_of_finite (scaleBits_finite hm hc))]

theorem natAbs_pos_of_ne_zero {raw : Word} (h : raw ≠ 0) : 1 ≤ raw.toInt.natAbs := by
  refine Int.natAbs_pos.mpr fun h0 => h ?_
  exact BitVec.eq_of_toInt_eq (h0.trans (by decide))

/-- Settles O17: the magnitude grows with the sample's, and that of the sample 1 is normal and large enough. -/
theorem scaleIsNormal : Obligations.ScaleIsNormal := by
  unfold Obligations.ScaleIsNormal
  intro raw c hmin hmax h0 hc
  have hm : raw.toInt.natAbs ≤ 524288 := by omega
  have hfin := scaleBits_finite hm hc
  have hle := scaleBits_mono (natAbs_pos_of_ne_zero h0) c
  have hone : 2 ^ 23 ≤ scaleBits 1 c ∧ 39 * 2 ^ 150 ≤ 10000000 * f32Mag (scaleBits 1 c) := by
    rcases code_cases hc with rfl | rfl | rfl <;> decide
  obtain ⟨hnormal, hlarge⟩ := hone
  constructor
  · have hexp := f32Exp_of_finite raw.msb hfin
    have hfield := (f32_fields raw.msb _ (lt_of_finite hfin)).2.1
    rw [scale_eq hm hc, f32IsNormal, Bool.and_eq_true, bne_iff_ne, bne_iff_ne]
    exact ⟨by rw [hfield]; omega, hexp⟩
  · rw [abs_f32Value, scale_eq hm hc, f32Sig_pack _ (lt_of_finite hfin), div_le_div_iff₀ (by positivity) (by positivity)]
    have hmag := hlarge.trans (Nat.mul_le_mul_left _ (f32Mag_mono hle))
    have hq : (39 : ℚ) * 2 ^ 150 ≤ 10000000 * f32Mag (scaleBits raw.toInt.natAbs c) := by exact_mod_cast hmag
    linarith

/-! ### Odd symmetry -/

theorem f32Pack_not (neg : Bool) (b : Nat) : f32Pack (!neg) b = f32Pack neg b ^^^ 0x80000000 := by
  have hmask : (0x80000000 : Word) = BitVec.ofBool true ++ 0#31 := by decide
  have hsign : BitVec.ofBool (!neg) = BitVec.ofBool neg ^^^ BitVec.ofBool true := by cases neg <;> rfl
  rw [hmask, f32Pack, f32Pack, BitVec.xor_append, BitVec.xor_zero, hsign]

theorem f32Value_not (neg : Bool) {b : Nat} (hb : b < 2 ^ 31) : f32Value (f32Pack (!neg) b) = -f32Value (f32Pack neg b) := by
  rw [f32Value_f32Pack _ hb, f32Value_f32Pack _ hb]
  cases neg <;> simp [neg_div]

theorem neg_sample {raw : Word} (hmin : -524287 ≤ raw.toInt) (hmax : raw.toInt ≤ 524287) (h0 : raw ≠ 0) :
    (-raw).msb = !raw.msb ∧ (-raw).toInt.natAbs = raw.toInt.natAbs := by
  have hne : raw ≠ BitVec.intMin 32 := by
    rintro rfl
    exact absurd hmin (by decide)
  have hneg : (-raw).toInt = -raw.toInt := BitVec.toInt_neg_of_ne_intMin hne
  have hpos := natAbs_pos_of_ne_zero h0
  refine ⟨?_, by rw [hneg, Int.natAbs_neg]⟩
  rw [BitVec.msb_eq_toInt, BitVec.msb_eq_toInt, hneg, ← decide_not, decide_eq_decide]
  omega

/-- Settles O18: the negated sample has the other sign and the same magnitude. -/
theorem scaleOddSymmetry : Obligations.ScaleOddSymmetry := by
  unfold Obligations.ScaleOddSymmetry
  intro raw c hmin hmax hc
  by_cases h0 : raw = 0
  · obtain ⟨hzero, -⟩ := scaleEndpoints.1 c hc
    have hvalue : f32Value 0 = 0 := by rw [f32Value_of_mag (n := 0) (by decide) (by decide)]; simp
    rw [h0, show -(0 : Word) = 0 by decide, hzero, hvalue]
    exact ⟨neg_zero.symm, fun h => absurd rfl h⟩
  · obtain ⟨hmsb, habs⟩ := neg_sample hmin hmax h0
    have hm : raw.toInt.natAbs ≤ 524288 := by omega
    rw [scale_eq (habs ▸ hm) hc, scale_eq hm hc, hmsb, habs]
    exact ⟨f32Value_not _ (lt_of_finite (scaleBits_finite hm hc)), fun _ => f32Pack_not ..⟩

/-! ### Order -/

/-- Settles O19: the magnitude grows with the sample's, and the sign is the sample's. -/
theorem scaleMonotone : Obligations.ScaleMonotone := by
  unfold Obligations.ScaleMonotone
  intro raw1 raw2 c hmin hle hmax hc
  have hm1 : raw1.toInt.natAbs ≤ 524288 := by omega
  have hm2 : raw2.toInt.natAbs ≤ 524288 := by omega
  have hmag {m n : Nat} (h : m ≤ n) : (f32Mag (scaleBits m c) : ℚ) ≤ f32Mag (scaleBits n c) :=
    Nat.cast_le.mpr (f32Mag_mono (scaleBits_mono h c))
  rw [f32Value_scale hm1 hc, f32Value_scale hm2 hc, div_le_div_iff_of_pos_right (by positivity),
    BitVec.msb_eq_toInt, BitVec.msb_eq_toInt]
  rcases lt_or_ge raw1.toInt 0 with h1 | h1
  · rcases lt_or_ge raw2.toInt 0 with h2 | h2
    · simpa [h1, h2] using hmag (m := raw2.toInt.natAbs) (n := raw1.toInt.natAbs) (by omega)
    · simp only [h1, h2.not_gt, decide_true, decide_false, Bool.false_eq_true, if_true, if_false, one_mul]
      exact (mul_nonpos_of_nonpos_of_nonneg (by norm_num) (Nat.cast_nonneg _)).trans (Nat.cast_nonneg _)
  · simpa [h1.not_gt, (h1.trans hle).not_gt] using
      hmag (m := raw1.toInt.natAbs) (n := raw2.toInt.natAbs) (by omega)

/-! ### The ranges -/

theorem nearestEven_double (a b : Nat) : nearestEven (2 * a) (2 * b) = nearestEven a b := by
  simp only [nearestEven, Nat.mul_div_mul_left _ _ Nat.two_pos, Nat.mul_mod_mul_left]
  have hround : 2 * b < 2 * (2 * (a % b)) ∨ 2 * (2 * (a % b)) = 2 * b ∧ a / b % 2 = 1 ↔
      b < 2 * (a % b) ∨ 2 * (a % b) = b ∧ a / b % 2 = 1 := by omega
  simp only [hround]

/-- The exponent is the one that its bounds say. -/
theorem roundExp_eq {num den e : Nat} (hd : 0 < den) (h1 : 1 ≤ e) (hup : num * 2 ^ 150 < den * 2 ^ e * 2 ^ 24)
    (hlow : den * 2 ^ e * 2 ^ 23 ≤ num * 2 ^ 150) : roundExp num den = e := by
  obtain ⟨hup', hlow'⟩ := roundExp_bounds num den hd
  generalize roundExp num den = f at *
  have hnext {i j : Nat} (h : i < j) : den * 2 ^ i * 2 ^ 24 ≤ den * 2 ^ j * 2 ^ 23 := by
    calc den * 2 ^ i * 2 ^ 24 = den * 2 ^ (i + 1) * 2 ^ 23 := by ring
      _ ≤ den * 2 ^ j * 2 ^ 23 :=
        Nat.mul_le_mul_right _ (Nat.mul_le_mul_left _ (Nat.pow_le_pow_right (by decide) h))
  rcases Nat.lt_trichotomy f e with h | h | h
  · exact absurd (hup'.trans_le ((hnext h).trans hlow)) (lt_irrefl _)
  · exact h
  · exact absurd (hup.trans_le ((hnext h).trans (hlow'.resolve_left (by omega)))) (lt_irrefl _)

/-- Above the subnormals, twice the ratio is rounded at the next exponent. -/
theorem roundMag_double {num den : Nat} (hd : 0 < den) (h : roundExp num den ≠ 1) :
    roundMag (2 * num) den = 2 * roundMag num den := by
  obtain ⟨hup, hlow⟩ := roundExp_bounds num den hd
  have hlow := hlow.resolve_left h
  have htwice (k : Nat) : den * 2 ^ (roundExp num den + 1) * k = 2 * (den * 2 ^ roundExp num den * k) := by ring
  have hnum : 2 * num * 2 ^ 150 = 2 * (num * 2 ^ 150) := Nat.mul_assoc ..
  have hexp : roundExp (2 * num) den = roundExp num den + 1 :=
    roundExp_eq hd (by omega) (by rw [htwice, hnum]; omega) (by rw [htwice, hnum]; omega)
  have hsig : nearestEven (2 * num * 2 ^ 150) (den * 2 ^ (roundExp num den + 1)) =
      nearestEven (num * 2 ^ 150) (den * 2 ^ roundExp num den) := by
    rw [← nearestEven_double (num * 2 ^ 150), hnum, ← Nat.mul_one (den * _), htwice, Nat.mul_one]
  rw [roundMag, roundMag, hexp, hsig]
  ring

/-- No product of the scaler is subnormal. -/
theorem scale_roundExp_ne_one {m : Nat} (h1 : 1 ≤ m) {c : BitVec 2} (hc : c ≠ 0) :
    roundExp (f32Mag (quotBits m) * fsMag c) (2 ^ 150 * 2 ^ 150) ≠ 1 := by
  have hone : 1 < roundExp (f32Mag (quotBits 1) * fsMag c) (2 ^ 150 * 2 ^ 150) := by
    rcases code_cases hc with rfl | rfl | rfl <;> decide
  refine (hone.trans_le (roundExp_mono (by positivity) (by positivity) ?_)).ne'
  exact Nat.mul_le_mul_right _ (Nat.mul_le_mul_right _ (f32Mag_mono (quotBits_mono h1)))

/-- The magnitude of SCALE is the product's, rounded. -/
theorem f32Mag_scaleBits {m : Nat} (hm : m ≤ 524288) {c : BitVec 2} (hc : c ≠ 0) :
    f32Mag (scaleBits m c) = roundMag (f32Mag (quotBits m) * fsMag c) (2 ^ 150 * 2 ^ 150) :=
  f32Mag_roundBits (by positivity) (scaleBits_finite hm hc)

theorem f32Mag_scaleBits_zero {c : BitVec 2} (hc : c ≠ 0) : f32Mag (scaleBits 0 c) = 0 := by
  rcases code_cases hc with rfl | rfl | rfl <;> decide

/-- Twice the full scale is twice the result. -/
theorem f32Mag_scaleBits_double {m : Nat} (hm : m ≤ 524288) {c c' : BitVec 2} (hc : c ≠ 0) (hc' : c' ≠ 0)
    (hfs : fsMag c' = 2 * fsMag c) : f32Mag (scaleBits m c') = 2 * f32Mag (scaleBits m c) := by
  rcases Nat.eq_zero_or_pos m with rfl | h1
  · rw [f32Mag_scaleBits_zero hc, f32Mag_scaleBits_zero hc']
  · rw [f32Mag_scaleBits hm hc, f32Mag_scaleBits hm hc', hfs, Nat.mul_left_comm,
      roundMag_double (by positivity) (scale_roundExp_ne_one h1 hc)]

/-- Settles O20: the constants are 2 and 4 times the first, and no result leaves the normal numbers. -/
theorem scaleRangeSteps : Obligations.ScaleRangeSteps := by
  unfold Obligations.ScaleRangeSteps
  intro raw hmin hmax
  have hm : raw.toInt.natAbs ≤ 524288 := by omega
  have h2 := f32Mag_scaleBits_double hm (c := 0b01) (c' := 0b10) (by decide) (by decide) (by decide)
  have h4 := f32Mag_scaleBits_double hm (c := 0b10) (c' := 0b11) (by decide) (by decide) (by decide)
  rw [f32Value_scale hm (by decide), f32Value_scale hm (by decide), f32Value_scale hm (by decide), h4, h2]
  push_cast
  constructor <;> ring

/-! ### Error -/

/-- Above the subnormals a rounded magnitude is off by at most one part in `2 ^ 24`. -/
theorem roundMag_error {num den : Nat} (hd : 0 < den) (h : roundExp num den ≠ 1) :
    |(roundMag num den : ℚ) / 2 ^ 150 - num / den| ≤ (num : ℚ) / den / 2 ^ 24 := round_error num den hd h

theorem quot_error {m : Nat} (h1 : 1 ≤ m) (hm : m ≤ 524288) :
    |(f32Mag (quotBits m) : ℚ) / 2 ^ 150 - m / 524287| ≤ (m : ℚ) / 524287 / 2 ^ 24 := by
  have hexp : 1 < roundExp m 524287 :=
    (show 1 < roundExp 1 524287 by decide).trans_le
      (roundExp_mono (by decide) (by decide) (Nat.mul_le_mul_right _ h1))
  have hmag : f32Mag (quotBits m) = roundMag m 524287 := f32Mag_roundBits (by decide) (quotBits_finite hm)
  rw [hmag]
  exact roundMag_error (by decide) hexp.ne'

theorem product_error {m : Nat} (h1 : 1 ≤ m) (hm : m ≤ 524288) {c : BitVec 2} (hc : c ≠ 0) :
    |(f32Mag (scaleBits m c) : ℚ) / 2 ^ 150 - f32Mag (quotBits m) / 2 ^ 150 * (fsMag c / 2 ^ 150)| ≤
      (f32Mag (quotBits m) : ℚ) / 2 ^ 150 * (fsMag c / 2 ^ 150) / 2 ^ 24 := by
  have h := roundMag_error (by positivity) (scale_roundExp_ne_one h1 hc)
  rw [← f32Mag_scaleBits hm hc, Nat.cast_mul, Nat.cast_mul, Nat.cast_pow, Nat.cast_ofNat] at h
  rwa [div_mul_div_comm]

/-- Two roundings, each off by at most one part in `2 ^ 24`. -/
theorem error_of_two_roundings {r q x f : ℚ} (hf : 0 ≤ f) (hq : |q - x| ≤ x / 2 ^ 24)
    (hr : |r - q * f| ≤ q * f / 2 ^ 24) : |r - x * f| ≤ (1 / 2 ^ 23 + 1 / 2 ^ 48) * (x * f) := by
  have hqx : q ≤ x + x / 2 ^ 24 := by linarith [(abs_le.mp hq).2]
  have hqf : q * f ≤ (x + x / 2 ^ 24) * f := mul_le_mul_of_nonneg_right hqx hf
  calc |r - x * f| = |(r - q * f) + (q - x) * f| := by congr 1; ring
    _ ≤ |r - q * f| + |(q - x) * f| := abs_add_le _ _
    _ = |r - q * f| + |q - x| * f := by rw [abs_mul, abs_of_nonneg hf]
    _ ≤ (x + x / 2 ^ 24) * f / 2 ^ 24 + x / 2 ^ 24 * f :=
      add_le_add (hr.trans (by linarith)) (mul_le_mul_of_nonneg_right hq hf)
    _ = (1 / 2 ^ 23 + 1 / 2 ^ 48) * (x * f) := by ring

/-- R87 law 7, on magnitudes. -/
theorem scaleMag_error {m : Nat} (hm : m ≤ 524288) {c : BitVec 2} (hc : c ≠ 0) :
    |(f32Mag (scaleBits m c) : ℚ) / 2 ^ 150 - (m : ℚ) / 524287 * (fsMag c / 2 ^ 150)| ≤
      (1 / 2 ^ 23 + 1 / 2 ^ 48) * ((m : ℚ) / 524287 * (fsMag c / 2 ^ 150)) := by
  rcases Nat.eq_zero_or_pos m with rfl | h1
  · simp [f32Mag_scaleBits_zero hc]
  · exact error_of_two_roundings (by positivity) (quot_error h1 hm) (product_error h1 hm hc)

/-- Settles O21: the quotient and the product are each rounded once, above the subnormals. -/
theorem scaleRelativeError : Obligations.ScaleRelativeError := by
  unfold Obligations.ScaleRelativeError
  intro raw c hmin hmax hc
  have hm : raw.toInt.natAbs ≤ 524288 := by omega
  have hfs : f32Value (fs32 c) = (fsMag c : ℚ) / 2 ^ 150 := f32Value_of_mag (fs32_finite hc).2 rfl
  have herror := scaleMag_error hm hc
  rw [f32Value_scale hm hc, toInt_eq_sign_mul, hfs]
  have hsign := abs_sign raw.msb
  generalize (if raw.msb then -1 else 1 : ℚ) = sign at *
  have hexact : sign * (raw.toInt.natAbs : ℚ) * (fsMag c / 2 ^ 150) / 524287 =
      sign * (raw.toInt.natAbs / 524287 * (fsMag c / 2 ^ 150)) := by ring
  rw [hexact, mul_div_assoc, ← mul_sub, abs_mul, abs_mul, hsign, one_mul, one_mul,
    abs_of_nonneg (a := (raw.toInt.natAbs : ℚ) / 524287 * (fsMag c / 2 ^ 150)) (by positivity)]
  exact herror

end Sys2Proof.Machine

namespace Sys2Proof.Machine

/-! ## The assembler (30_encoding.md R67) -/

/-! ### Tokens -/

/-- What a line holds between its separators. -/
abbrev IsToken (t : List Char) : Prop := t ≠ [] ∧ ∀ c ∈ t, c ≠ ' ' ∧ c ≠ ','

theorem tokenize_space (token cs : List Char) : tokenize token (' ' :: cs) = pushToken token (tokenize [] cs) := rfl

theorem tokenize_comma (token cs : List Char) :
    tokenize token (',' :: cs) = pushToken token ([','] :: tokenize [] cs) := rfl

theorem pushToken_of_ne_nil {t : List Char} (h : t ≠ []) (ts : List (List Char)) : pushToken t ts = t :: ts := by
  cases t with
  | nil => exact absurd rfl h
  | cons c cs => rfl

theorem tokenize_append {t : List Char} (h : ∀ c ∈ t, c ≠ ' ' ∧ c ≠ ',') (token cs : List Char) :
    tokenize token (t ++ cs) = tokenize (token ++ t) cs := by
  induction t generalizing token with
  | nil => simp
  | cons c t ih =>
      obtain ⟨hspace, hcomma⟩ := h c (by simp)
      rw [List.cons_append, tokenize.eq_4 _ _ _ hspace hcomma, ih fun c hc => h c (by simp [hc]), List.append_assoc]
      rfl

theorem tokenize_end {t : List Char} (h : IsToken t) : tokenize [] t = [t] := by
  have := tokenize_append h.2 [] []
  rw [List.append_nil, List.nil_append] at this
  rw [this]
  exact pushToken_of_ne_nil h.1 []

theorem tokenize_word {t : List Char} (h : IsToken t) (cs : List Char) :
    tokenize [] (t ++ ' ' :: cs) = t :: tokenize [] cs := by
  rw [tokenize_append h.2, List.nil_append, tokenize_space, pushToken_of_ne_nil h.1]

theorem tokenize_operands {a v : List Char} (ha : IsToken a) (hv : IsToken v) :
    tokenize [] (a ++ ',' :: ' ' :: v) = [a, [','], v] := by
  rw [tokenize_append ha.2, List.nil_append, tokenize_comma, pushToken_of_ne_nil ha.1, tokenize_space, tokenize_end hv]
  rfl

/-! ### Numbers -/

theorem digitValue_digitChar : ∀ d < 16, digitValue (Nat.digitChar d) = some d := by decide

theorem digits_append (base acc : Nat) (cs ds : List Char) :
    digits base acc (cs ++ ds) = (digits base acc cs).bind fun n => digits base n ds := by
  induction cs generalizing acc with
  | nil => rfl
  | cons c cs ih =>
      simp only [List.cons_append, digits]
      cases digitValue c with
      | none => rfl
      | some d =>
          dsimp only
          split
          · exact ih _
          · rfl

theorem digits_digitChar {base d : Nat} (hd : d < base) (h16 : base ≤ 16) (acc : Nat) :
    digits base acc [Nat.digitChar d] = some (acc * base + d) := by
  simp [digits, digitValue_digitChar d (by omega), hd]

/-- The digits of a number spell it. -/
theorem digits_toDigits {base : Nat} (h1 : 1 < base) (h16 : base ≤ 16) (n : Nat) :
    digits base 0 (Nat.toDigits base n) = some n := by
  induction n using Nat.base_induction base h1 with
  | single m hm => rw [Nat.toDigits_of_lt_base hm, digits_digitChar hm h16, Nat.zero_mul, Nat.zero_add]
  | digit m k hk hm ih =>
      rw [← Nat.toDigits_append_toDigits h1 hm hk, Nat.toDigits_of_lt_base hk, digits_append, ih, Option.bind_some,
        digits_digitChar hk h16, Nat.mul_comm]

theorem digits1_toDigits {base : Nat} (h1 : 1 < base) (h16 : base ≤ 16) (n : Nat) :
    digits1 base (Nat.toDigits base n) = some n := by
  have h := digits_toDigits h1 h16 n
  cases ht : Nat.toDigits base n with
  | nil => exact absurd ht Nat.toDigits_ne_nil
  | cons c cs => rwa [ht] at h

theorem number_of_spells {t : List Char} {n : Nat} (h : Spells t n) : number t = some n := by
  rcases h with rfl | rfl | rfl
  · have hx : 'x' ∉ Nat.toDigits 10 n := fun h =>
      absurd (Nat.isDigit_of_mem_toDigits (by decide) (by decide) h) (by decide)
    have hb : 'b' ∉ Nat.toDigits 10 n := fun h =>
      absurd (Nat.isDigit_of_mem_toDigits (by decide) (by decide) h) (by decide)
    rw [← digits1_toDigits (base := 10) (by decide) (by decide) n]
    unfold number
    split
    next ht => simp [ht] at hx
    next ht => simp [ht] at hb
    · rfl
  · exact digits1_toDigits (by decide) (by decide) n
  · exact digits1_toDigits (by decide) (by decide) n

theorem numberBelow_of_spells {t : List Char} {n bound : Nat} (h : Spells t n) (hn : n < bound) :
    numberBelow bound t = some n := by
  simp [numberBelow, number_of_spells h, hn]

theorem lt_of_numberBelow {t : List Char} {n bound : Nat} (h : numberBelow bound t = some n) : n < bound := by
  unfold numberBelow at h
  split at h
  · split at h
    · exact Option.some.inj h ▸ ‹_›
    · cases h
  · cases h

theorem isToken_digits : ∀ d < 16, Nat.digitChar d ≠ ' ' ∧ Nat.digitChar d ≠ ',' := by decide

theorem isToken_toDigits {base : Nat} (h1 : 1 < base) (h16 : base ≤ 16) (n : Nat) :
    ∀ c ∈ Nat.toDigits base n, c ≠ ' ' ∧ c ≠ ',' := by
  induction n using Nat.base_induction base h1 with
  | single m hm =>
      rw [Nat.toDigits_of_lt_base hm]
      intro c hc
      rw [List.mem_singleton.mp hc]
      exact isToken_digits m (by omega)
  | digit m k hk hm ih =>
      rw [← Nat.toDigits_append_toDigits h1 hm hk, Nat.toDigits_of_lt_base hk]
      intro c hc
      rcases List.mem_append.mp hc with hc | hc
      · exact ih c hc
      · rw [List.mem_singleton.mp hc]
        exact isToken_digits k (by omega)

theorem isToken_of_spells {t : List Char} {n : Nat} (h : Spells t n) : IsToken t := by
  rcases h with rfl | rfl | rfl
  · exact ⟨Nat.toDigits_ne_nil, isToken_toDigits (by decide) (by decide) n⟩
  · refine ⟨nofun, ?_⟩
    simpa using isToken_toDigits (base := 16) (by decide) (by decide) n
  · refine ⟨nofun, ?_⟩
    simpa using isToken_toDigits (base := 2) (by decide) (by decide) n

/-! ### Addresses -/

theorem registerTable_chars : registerTable.map (fun p => (p.1.toList, p.2)) = registerNames := by decide

theorem names_areTokens : ∀ q ∈ registerNames, IsToken q.1 := by
  have h : (registerNames.all fun q => q.1 != [] && q.1.all fun c => c != ' ' && c != ',') = true := by decide
  simpa using h

theorem names_lookup : ∀ q ∈ registerNames, registerNames.lookup q.1 = some q.2 :=
  List.forall_mem_append.mpr ⟨by decide, by decide⟩

theorem address_of_name {q : List Char × Addr} (h : q ∈ registerNames) : address q.1 = some q.2 := by
  rw [address, names_lookup q h]

theorem mem_registerNames {name : String} {a : Addr} (h : (name, a) ∈ registerTable) :
    (name.toList, a) ∈ registerNames :=
  registerTable_chars ▸ List.mem_map_of_mem (f := fun p => (p.1.toList, p.2)) h

/-- No register name begins with a digit. -/
theorem names_head : ∀ p ∈ registerNames, (p.1.head?.any Char.isDigit) = false := by decide

theorem head_of_spells {t : List Char} {n : Nat} (h : Spells t n) : t.head?.any Char.isDigit = true := by
  rcases h with rfl | rfl | rfl
  · cases ht : Nat.toDigits 10 n with
    | nil => exact absurd ht Nat.toDigits_ne_nil
    | cons c cs => exact Nat.isDigit_of_mem_toDigits (b := 10) (n := n) (by decide) (by decide) (by simp [ht])
  · rfl
  · rfl

theorem address_of_spells {t : List Char} {a : Addr} (h : SpellsAddr t a) : address t = some a := by
  rcases h with h | ⟨name, hmem, rfl⟩
  · have hlookup : registerNames.lookup t = none := by
      refine List.lookup_eq_none_iff.mpr fun p hp => bne_iff_ne.mpr ?_
      rintro rfl
      exact nomatch (head_of_spells h).symm.trans (names_head p hp)
    rw [address, hlookup]
    simp only [numberBelow_of_spells h a.isLt]
    simp
  · exact address_of_name (mem_registerNames hmem)

theorem isToken_of_spellsAddr {t : List Char} {a : Addr} (h : SpellsAddr t a) : IsToken t := by
  rcases h with h | ⟨name, hmem, rfl⟩
  · exact isToken_of_spells h
  · exact names_areTokens _ (mem_registerNames hmem)

/-! ### Lines -/

theorem assemble_ofList (l : List Char) : assemble (String.ofList l) = assembleTokens (tokenize [] l) := by
  rw [assemble, String.toList_ofList]

theorem assemble_wr {a v : List Char} {addr : Addr} {data : Byte} (ha : SpellsAddr a addr) (hv : Spells v data.toNat) :
    assemble (String.ofList ("WR ".toList ++ a ++ ", ".toList ++ v)) = some (.wr addr data) := by
  have htokens : tokenize [] ("WR ".toList ++ a ++ ", ".toList ++ v) = [['W', 'R'], a, [','], v] := by
    have hline : "WR ".toList ++ a ++ ", ".toList ++ v = ['W', 'R'] ++ ' ' :: (a ++ ',' :: ' ' :: v) := by simp
    rw [hline, tokenize_word (by simp [IsToken]), tokenize_operands (isToken_of_spellsAddr ha) (isToken_of_spells hv)]
  have hoperands : assembleWr a v = some (.wr addr data) := by
    simp [assembleWr, address_of_spells ha, numberBelow_of_spells hv data.isLt]
  rw [assemble_ofList, htokens]
  exact hoperands

theorem assemble_rd {a : List Char} {addr : Addr} (ha : SpellsAddr a addr) :
    assemble (String.ofList ("RD ".toList ++ a)) = some (.rd addr) := by
  have htokens : tokenize [] ("RD ".toList ++ a) = [['R', 'D'], a] := by
    have hline : "RD ".toList ++ a = ['R', 'D'] ++ ' ' :: a := by simp
    rw [hline, tokenize_word (by simp [IsToken]), tokenize_end (isToken_of_spellsAddr ha)]
  have hoperand : (address a).map Instr.rd = some (.rd addr) := by rw [address_of_spells ha, Option.map_some]
  rw [assemble_ofList, htokens]
  exact hoperand

theorem assemble_brd {a v : List Char} {addr : Addr} {n : BitVec 4} (ha : SpellsAddr a addr) (hv : Spells v n.toNat)
    (hn : n ≠ 0) : assemble (String.ofList ("BRD ".toList ++ a ++ ", ".toList ++ v)) = some (.brd addr n) := by
  have htokens : tokenize [] ("BRD ".toList ++ a ++ ", ".toList ++ v) = [['B', 'R', 'D'], a, [','], v] := by
    have hline : "BRD ".toList ++ a ++ ", ".toList ++ v = ['B', 'R', 'D'] ++ ' ' :: (a ++ ',' :: ' ' :: v) := by simp
    rw [hline, tokenize_word (by simp [IsToken]), tokenize_operands (isToken_of_spellsAddr ha) (isToken_of_spells hv)]
  have hne : n.toNat ≠ 0 := fun h => hn (BitVec.eq_of_toNat_eq h)
  have hoperands : assembleBrd a v = some (.brd addr n) := by
    simp [assembleBrd, address_of_spells ha, numberBelow_of_spells hv n.isLt, hne]
  rw [assemble_ofList, htokens]
  exact hoperands

/-! ### INIT's options -/

theorem IsToken.append {t u : List Char} (ht : IsToken t) (hu : IsToken u) : IsToken (t ++ u) :=
  ⟨by simp [ht.1], fun c hc => (List.mem_append.mp hc).elim (ht.2 c) (hu.2 c)⟩

/-- Words with a space before each but the first. -/
theorem tokenize_words {t : List Char} (ht : IsToken t) {ws : List (List Char)} (hws : ∀ w ∈ ws, IsToken w) :
    tokenize [] (t ++ ws.flatMap (' ' :: ·)) = t :: ws := by
  induction ws generalizing t with
  | nil => rw [List.flatMap_nil, List.append_nil, tokenize_end ht]
  | cons w ws ih =>
      rw [List.flatMap_cons, List.cons_append, tokenize_word ht, ih (hws w (by simp)) fun u hu => hws u (by simp [hu])]

/-- The tokens of an option of INIT: one where it is given. -/
def optionTokens (key : List Char) (o : Option (List Char)) : List (List Char) := (o.map (key ++ ·)).toList

theorem optionText_eq (key : String) (o : Option (List Char)) :
    optionText key o = (optionTokens key.toList o).flatMap (' ' :: ·) := by
  cases o <;> simp [optionText, optionTokens]

theorem isToken_of_mem_optionTokens {α : Type} {key : List Char} (hkey : IsToken key) {o : Option (List Char × α)}
    (ho : ∀ p, o = some p → IsToken p.1) : ∀ t ∈ optionTokens key (o.map (·.1)), IsToken t := by
  cases o with
  | none => exact nofun
  | some p =>
      intro t ht
      rw [List.mem_singleton.mp ht]
      exact hkey.append (ho p rfl)

theorem afterKey_append (key t : List Char) : afterKey key (key ++ t) = some t := by
  induction key with
  | nil => rfl
  | cons k ks ih => rw [List.cons_append, afterKey, if_pos rfl, ih]

/-- The options' keys differ in their first letters. -/
theorem afterKey_other {k c : Char} (h : k ≠ c) (ks cs : List Char) (o : Option (List Char)) :
    ∀ t ∈ optionTokens (c :: cs) o, afterKey (k :: ks) t = none := by
  cases o with
  | none => exact nofun
  | some v =>
      intro t ht
      rw [List.mem_singleton.mp ht]
      exact if_neg h

theorem takeOption_absent {w : Nat} {key : List Char} (value : List Char → Option (BitVec w)) {ts : List (List Char)}
    (h : ∀ t ∈ ts, afterKey key t = none) : takeOption key value ts = some (false, 0, ts) := by
  cases ts with
  | nil => rfl
  | cons t ts => simp only [takeOption, h t (by simp)]

theorem takeOption_optionTokens {w : Nat} {key : List Char} {value : List Char → Option (BitVec w)}
    {o : Option (List Char × BitVec w)} (hvalue : ∀ p, o = some p → value p.1 = some p.2) {ts : List (List Char)}
    (hts : ∀ t ∈ ts, afterKey key t = none) :
    takeOption key value (optionTokens key (o.map (·.1)) ++ ts) = some (o.isSome, (o.map (·.2)).getD 0, ts) := by
  cases o with
  | none => exact takeOption_absent value hts
  | some p => simp [optionTokens, takeOption, afterKey_append, hvalue p rfl]

theorem rangeValue_of_spells {t : List Char} {code : BitVec 2} (h : SpellsRange t code) :
    IsToken t ∧ rangeValue t = some code := by
  rcases h with ⟨rfl, rfl | rfl⟩ | ⟨rfl, rfl | rfl⟩ | ⟨rfl, rfl | rfl⟩ <;> exact ⟨by simp [IsToken], rfl⟩

theorem codeBelow_of_spells {t : List Char} {w bound : Nat} {code : BitVec w} (h : Spells t code.toNat)
    (hlt : code.toNat < bound) : (numberBelow bound t).map (BitVec.ofNat w) = some code := by
  simp [numberBelow_of_spells h hlt]

/-- The tokens of INIT's options, in the order of R67. -/
def initTokens (r o h : Option (List Char)) : List (List Char) :=
  optionTokens ['r', 'a', 'n', 'g', 'e', '='] r ++
    (optionTokens ['o', 'd', 'r', '='] o ++ optionTokens ['h', 'p', 'f', '='] h)

theorem tokenize_init {r : Option (List Char × BitVec 2)} {o : Option (List Char × BitVec 4)}
    {h : Option (List Char × BitVec 3)} (hr : ∀ p, r = some p → IsToken p.1) (ho : ∀ p, o = some p → IsToken p.1)
    (hh : ∀ p, h = some p → IsToken p.1) :
    tokenize [] ("INIT".toList ++ optionText "range=" (r.map (·.1)) ++ optionText "odr=" (o.map (·.1)) ++
        optionText "hpf=" (h.map (·.1))) =
      ['I', 'N', 'I', 'T'] :: initTokens (r.map (·.1)) (o.map (·.1)) (h.map (·.1)) := by
  have hwords : ∀ t ∈ initTokens (r.map (·.1)) (o.map (·.1)) (h.map (·.1)), IsToken t :=
    List.forall_mem_append.mpr ⟨isToken_of_mem_optionTokens (by simp [IsToken]) hr,
      List.forall_mem_append.mpr ⟨isToken_of_mem_optionTokens (by simp [IsToken]) ho,
        isToken_of_mem_optionTokens (by simp [IsToken]) hh⟩⟩
  rw [← tokenize_words (by simp [IsToken]) hwords]
  simp [optionText_eq, initTokens]

theorem assembleInit_initTokens {r : Option (List Char × BitVec 2)} {o : Option (List Char × BitVec 4)}
    {h : Option (List Char × BitVec 3)} (hr : ∀ p, r = some p → rangeValue p.1 = some p.2)
    (ho : ∀ p, o = some p → (numberBelow 11 p.1).map (BitVec.ofNat 4) = some p.2)
    (hh : ∀ p, h = some p → (numberBelow 7 p.1).map (BitVec.ofNat 3) = some p.2) :
    assembleInit (initTokens (r.map (·.1)) (o.map (·.1)) (h.map (·.1))) =
      some (.init r.isSome ((r.map (·.2)).getD 0) o.isSome ((o.map (·.2)).getD 0) h.isSome ((h.map (·.2)).getD 0)) := by
  have hrange := takeOption_optionTokens (key := ['r', 'a', 'n', 'g', 'e', '=']) hr
    (List.forall_mem_append.mpr ⟨afterKey_other (c := 'o') (by decide) _ ['d', 'r', '='] (o.map (·.1)),
      afterKey_other (c := 'h') (by decide) _ ['p', 'f', '='] (h.map (·.1))⟩)
  have hodr := takeOption_optionTokens (key := ['o', 'd', 'r', '='])
    (value := fun t => (numberBelow 11 t).map (BitVec.ofNat 4)) ho
    (afterKey_other (c := 'h') (by decide) _ ['p', 'f', '='] (h.map (·.1)))
  have hhpf := takeOption_optionTokens (key := ['h', 'p', 'f', '='])
    (value := fun t => (numberBelow 7 t).map (BitVec.ofNat 3)) hh (ts := []) nofun
  rw [List.append_nil] at hhpf
  simp only [assembleInit, initTokens, hrange, hodr, hhpf]

theorem assemble_init {r : Option (List Char × BitVec 2)} {o : Option (List Char × BitVec 4)}
    {h : Option (List Char × BitVec 3)} (hr : ∀ p, r = some p → SpellsRange p.1 p.2)
    (ho : ∀ p, o = some p → Spells p.1 p.2.toNat ∧ p.2.toNat ≤ 10)
    (hh : ∀ p, h = some p → Spells p.1 p.2.toNat ∧ p.2.toNat ≤ 6) :
    assemble (String.ofList ("INIT".toList ++ optionText "range=" (r.map (·.1)) ++ optionText "odr=" (o.map (·.1)) ++
        optionText "hpf=" (h.map (·.1)))) =
      some (.init r.isSome ((r.map (·.2)).getD 0) o.isSome ((o.map (·.2)).getD 0) h.isSome ((h.map (·.2)).getD 0)) := by
  rw [assemble_ofList, tokenize_init (fun p hp => (rangeValue_of_spells (hr p hp)).1)
    (fun p hp => isToken_of_spells (ho p hp).1) fun p hp => isToken_of_spells (hh p hp).1]
  exact assembleInit_initTokens (fun p hp => (rangeValue_of_spells (hr p hp)).2)
    (fun p hp => codeBelow_of_spells (ho p hp).1 (Nat.lt_succ_of_le (ho p hp).2))
    fun p hp => codeBelow_of_spells (hh p hp).1 (Nat.lt_succ_of_le (hh p hp).2)

/-! ### What the assembler gives is well-formed -/

/-- A command of the reference build, every field within its constraint. -/
abbrev IsLegalCommand (i : Instr) : Prop := i.wellFormed .reference = true ∧ i.isCommand = true

theorem rangeValue_ne_zero {t : List Char} {code : BitVec 2} (h : rangeValue t = some code) : code ≠ 0 := by
  have hdigits : ∀ cs, rangeValue.rangeDigits cs = some code → code ≠ 0 := by
    intro cs hcs
    unfold rangeValue.rangeDigits at hcs
    split at hcs <;> cases hcs <;> decide
  unfold rangeValue at h
  split at h
  · exact hdigits _ h
  · exact hdigits _ h

theorem toNat_lt_of_codeBelow {t : List Char} {w bound : Nat} {code : BitVec w}
    (h : (numberBelow bound t).map (BitVec.ofNat w) = some code) : code.toNat < bound := by
  obtain ⟨n, hn, rfl⟩ := Option.map_eq_some_iff.mp h
  rw [BitVec.toNat_ofNat]
  exact (Nat.mod_le _ _).trans_lt (lt_of_numberBelow hn)

/-- An option taken has a value of its kind; one left out is 0. -/
theorem takeOption_cases {w : Nat} {key : List Char} {value : List Char → Option (BitVec w)} {ts rest : List (List Char)}
    {given : Bool} {code : BitVec w} (h : takeOption key value ts = some (given, code, rest)) :
    (given = true ∧ ∃ t, value t = some code) ∨ (given = false ∧ code = 0) := by
  unfold takeOption at h
  split at h
  · cases h
    exact .inr ⟨rfl, rfl⟩
  · split at h
    · cases h
      exact .inr ⟨rfl, rfl⟩
    · split at h
      · cases h
        exact .inl ⟨rfl, _, ‹_›⟩
      · cases h

theorem rangeFieldOk_of_takeOption {key : List Char} {ts rest : List (List Char)} {given : Bool} {code : BitVec 2}
    (h : takeOption key rangeValue ts = some (given, code, rest)) : rangeFieldOk given code = true := by
  rcases takeOption_cases h with ⟨rfl, t, ht⟩ | ⟨rfl, rfl⟩
  · exact bne_iff_ne.mpr (rangeValue_ne_zero ht)
  · rfl

theorem odrFieldOk_of_takeOption {key : List Char} {ts rest : List (List Char)} {given : Bool} {code : BitVec 4}
    (h : takeOption key (fun t => (numberBelow 11 t).map (BitVec.ofNat 4)) ts = some (given, code, rest)) :
    odrFieldOk given code = true := by
  rcases takeOption_cases h with ⟨rfl, t, ht⟩ | ⟨rfl, rfl⟩
  · exact decide_eq_true (Nat.le_of_lt_succ (toNat_lt_of_codeBelow ht))
  · rfl

theorem hpfFieldOk_of_takeOption {key : List Char} {ts rest : List (List Char)} {given : Bool} {code : BitVec 3}
    (h : takeOption key (fun t => (numberBelow 7 t).map (BitVec.ofNat 3)) ts = some (given, code, rest)) :
    hpfFieldOk .full given code = true := by
  rcases takeOption_cases h with ⟨rfl, t, ht⟩ | ⟨rfl, rfl⟩
  · have hne : code ≠ 7 := by
      rintro rfl
      exact absurd (toNat_lt_of_codeBelow ht) (by decide)
    simpa [hpfFieldOk] using hne
  · rfl

theorem isLegalCommand_of_assembleInit {ts : List (List Char)} {i : Instr} (h : assembleInit ts = some i) :
    IsLegalCommand i := by
  unfold assembleInit at h
  split at h
  · cases h
  next hrange =>
    split at h
    · cases h
    next hodr =>
      split at h
      next hhpf =>
        cases h
        refine ⟨?_, rfl⟩
        simp only [Instr.wellFormed, rangeFieldOk_of_takeOption hrange, odrFieldOk_of_takeOption hodr, Bool.true_and]
        exact hpfFieldOk_of_takeOption hhpf
      · cases h

theorem isLegalCommand_of_assembleWr {a v : List Char} {i : Instr} (h : assembleWr a v = some i) :
    IsLegalCommand i := by
  unfold assembleWr at h
  split at h
  · cases h
    exact ⟨rfl, rfl⟩
  · cases h

theorem isLegalCommand_of_assembleBrd {a v : List Char} {i : Instr} (h : assembleBrd a v = some i) :
    IsLegalCommand i := by
  unfold assembleBrd at h
  split at h
  next n _ hn =>
    split at h
    · cases h
    next hne =>
      cases h
      have hlt : n < 16 := lt_of_numberBelow hn
      have hlen : BitVec.ofNat 4 n ≠ 0 := by bv_omega
      refine ⟨?_, rfl⟩
      simp only [Instr.wellFormed, Bool.and_eq_true, bne_iff_ne, decide_eq_true_eq]
      exact ⟨hlen, Nat.le_of_lt_succ (BitVec.ofNat 4 n).isLt⟩
  · cases h

theorem isLegalCommand_of_assembleTokens {ts : List (List Char)} {i : Instr} (h : assembleTokens ts = some i) :
    IsLegalCommand i := by
  unfold assembleTokens at h
  split at h
  · exact isLegalCommand_of_assembleWr h
  · obtain ⟨addr, _, rfl⟩ := Option.map_eq_some_iff.mp h
    exact ⟨rfl, rfl⟩
  · exact isLegalCommand_of_assembleBrd h
  · exact isLegalCommand_of_assembleInit h
  · cases h; exact ⟨rfl, rfl⟩
  · cases h; exact ⟨rfl, rfl⟩
  · cases h; exact ⟨rfl, rfl⟩
  · cases h; exact ⟨rfl, rfl⟩
  · cases h; exact ⟨rfl, rfl⟩
  · cases h

/-- Settles O8: the line of a form is cut into its tokens, whose spellings are read back; what comes out meets the
field constraints, so the round trip of O2 applies. -/
theorem assembledIsWellFormed : Obligations.AssembledIsWellFormed := by
  unfold Obligations.AssembledIsWellFormed
  refine ⟨fun line i h => ?_, fun a v addr data => assemble_wr, fun a addr => assemble_rd,
    fun a v addr n => assemble_brd, fun r o h => assemble_init, ?_⟩
  · obtain ⟨hwf, hcommand⟩ := isLegalCommand_of_assembleTokens h
    exact ⟨hwf, hcommand, decodeEncodeRoundTrip .reference i hwf⟩
  · decide

end Sys2Proof.Machine
